-- ==== Sys2Proof/Word.lean ====
section
/-! DEFINITION. The widths of the values the SIO controller handles (spec 00_scope.md R7, R9; 30_encoding.md R70). -/

namespace Sys2Proof

/-- A byte of the data register's stream, of the command buffer or of the socket. -/
abbrev Byte := BitVec 8

/-- A 16-bit register value, and every 16-bit field of the relay (R23, R24, R35, R36, R51). -/
abbrev Word := BitVec 16

/-- A 32-bit protocol field: CRC or IPv4 address (R34, R38). -/
abbrev Word32 := BitVec 32

/-- A request word: op 35:32, aux 31:16, data 15:0 (R70). -/
abbrev ReqWord := BitVec 36

/-- A driver handle: an opaque 16-bit identity, 0 for the null driver (R73). -/
abbrev Handle := BitVec 16

/-- The handle of an open TCP connection: an opaque identity, fresh at each connect that succeeds (R39, R263). `serial` is
what makes it fresh, how many connects had succeeded before, and `name` is the socket's own draw (log 28). -/
structure SockHandle where
  serial : Nat
  name : Nat
deriving DecidableEq, Repr

end Sys2Proof
end

