-- ==== Sys2Proof/Syntax.lean ====
section
/-! DEFINITION. The names the spec gives (link modes, slots, transfer modes, register identities) and the instructions:
one constructor of `Instr` for each of the 45 rows of spec/opcode_table.json. -/

namespace Sys2Proof

/-- The link mode, with the unset sentinel (R25). -/
inductive LinkMode where
  | normal8 | normal32 | multiplayer | joybus | unset
deriving DecidableEq, Repr

/-- The three driver slots (R26). -/
inductive Slot where
  | normal | multiplayer | joybus
deriving DecidableEq, Repr

/-- The relay's transfer mode (R31). -/
inductive TMode where
  | idle | parse | send | recv | sendRecv | estab | reserved
deriving DecidableEq, Repr

/-- The register a driver's writeRegister hook is told of (R262). -/
inductive RegId where
  | rcnt
  | siocnt
  | other (off : Word)
deriving DecidableEq, Repr

/-- The six relay commands (30_encoding.md R78). -/
inductive Command where
  | send | recv | duplex | connect | disconnect | dns
deriving DecidableEq, Repr

/-- The rows of the data register's write table: 30_encoding.md R74, with the four cancel bytes and the six command
codes apart, as spec/opcode_table.json has them. -/
inductive WriteRow where
  | start | idleIgn
  | cancel00 | cancel01 | cancelFE | cancelFF
  | cmdSend | cmdRecv | cmdDuplex | cmdConnect | cmdDisconnect | cmdDns
  | codeDrop | term | append | overflow
  | payloadOut | duplexOut | xferIgn
deriving DecidableEq, Repr

/-- The rows of the data register's read table (30_encoding.md R75). -/
inductive ReadRow where
  | nodata | payloadIn | duplexIn | estab
deriving DecidableEq, Repr

/-- One constructor for each row of spec/opcode_table.json. The first eight are the request kinds, the next eight the
reserved kinds (R70, R71). `wdata…` and `rdata…` are the rows a WDATA or RDATA request takes in a given transfer mode
(R74, R75), with the byte `b` where the row leaves it open. `cmd…` are whole frames with their payload (R76, R78). -/
inductive Instr where
  | wrcnt (value : Word)
  | wsiocnt (value : Word)
  | wdata (value : Word)
  | rdata
  | wother (off value : Word)
  | reset
  | setdrv (code : BitVec 3) (handle : Handle)
  | destroy
  | reservedOp0
  | reservedOp6
  | reservedOp7
  | reservedOpB
  | reservedOpC
  | reservedOpD
  | reservedOpE
  | reservedOpF
  | wdataStart
  | wdataIdleIgn (b : Byte)
  | wdataCancel00
  | wdataCancel01
  | wdataCancelFE
  | wdataCancelFF
  | wdataCmdSend
  | wdataCmdRecv
  | wdataCmdDuplex
  | wdataCmdConnect
  | wdataCmdDisconnect
  | wdataCmdDns
  | wdataCodeDrop (b : Byte)
  | wdataTerm
  | wdataAppend (b : Byte)
  | wdataOverflow (b : Byte)
  | wdataPayloadOut (b : Byte)
  | wdataDuplexOut (b : Byte)
  | wdataXferIgn (b : Byte)
  | rdataReadNodata
  | rdataPayloadIn
  | rdataDuplexIn
  | rdataReadEstab
  | cmdSend (payload : List Byte)
  | cmdRecv (payload : List Byte)
  | cmdDuplex (payload : List Byte)
  | cmdConnect (payload : List Byte)
  | cmdDisconnect (payload : List Byte)
  | cmdDns (payload : List Byte)
deriving DecidableEq, Repr

/-- A command's whole frame, with its payload, as an instruction. -/
def Command.instr (payload : List Byte) : Command → Instr
  | .send => .cmdSend payload
  | .recv => .cmdRecv payload
  | .duplex => .cmdDuplex payload
  | .connect => .cmdConnect payload
  | .disconnect => .cmdDisconnect payload
  | .dns => .cmdDns payload

/-- The row of the write table as an instruction, `b` the byte written. -/
def WriteRow.instr (b : Byte) : WriteRow → Instr
  | .start => .wdataStart
  | .idleIgn => .wdataIdleIgn b
  | .cancel00 => .wdataCancel00
  | .cancel01 => .wdataCancel01
  | .cancelFE => .wdataCancelFE
  | .cancelFF => .wdataCancelFF
  | .cmdSend => .wdataCmdSend
  | .cmdRecv => .wdataCmdRecv
  | .cmdDuplex => .wdataCmdDuplex
  | .cmdConnect => .wdataCmdConnect
  | .cmdDisconnect => .wdataCmdDisconnect
  | .cmdDns => .wdataCmdDns
  | .codeDrop => .wdataCodeDrop b
  | .term => .wdataTerm
  | .append => .wdataAppend b
  | .overflow => .wdataOverflow b
  | .payloadOut => .wdataPayloadOut b
  | .duplexOut => .wdataDuplexOut b
  | .xferIgn => .wdataXferIgn b

/-- The row of the read table as an instruction. -/
def ReadRow.instr : ReadRow → Instr
  | .nodata => .rdataReadNodata
  | .payloadIn => .rdataPayloadIn
  | .duplexIn => .rdataDuplexIn
  | .estab => .rdataReadEstab

end Sys2Proof
end

