-- ==== Sys2Proof/Config.lean ====
section
/-! DEFINITION. What an implementation fixes (00_scope.md R7, R8) and the values the spec leaves open.
`Params` is held in State and no step writes it, so that a statement over all states is a statement over all
parameters (log 1). The opaque constants are the parameters with no value in the spec: nothing can be proved of them
(log 3, 4). -/

namespace Sys2Proof

/-- `caps(d)`: the hooks a driver provides (60_exceptions.md R262). -/
structure Caps where
  init : Bool
  deinit : Bool
  load : Bool
  unload : Bool
  writeRegister : Bool
deriving DecidableEq, Repr, Inhabited

/-- The block's parameters (R7). `normal32` and `joybus` hold MODE_MAP in the form its constraints R103 leave open: a
selector below 8 gives Normal32 when its low two bits are listed in `normal32`, else Normal8; a selector of 8 or more
gives Joybus when it is listed in `joybus`, else Multiplayer. Every map R103 allows is one of these, and only those are.
`caps` lists the hooks of the handles the host has described; `emulator` is the back-reference of R29. -/
structure Params where
  rcntReset : Word
  normal32 : List (BitVec 2)
  joybus : List (BitVec 4)
  noData : Word
  connectAddr : Word32
  connectPort : Word
  qReady : Word
  qStart : Word
  qIntClk : Word
  qIrqEn : Word
  qMultiMask : Word
  qMultiForce : Word
  irqSio : Nat
  emulator : Nat
  caps : List (Handle × Caps)
deriving DecidableEq, Repr

namespace Config

/-- NO_DATA, the sentinel a data read returns: OPEN (R7, D3). A free value (log 3). -/
opaque noData : Word

/-- CONNECT_PORT, the fixed connect target's port: OPEN (R7, D21). A free value (log 3). -/
opaque connectPort : Word

/-- IRQ_SIO, the interrupt source the block raises: abstract (R7, D7). A free value (log 3). -/
opaque irqSio : Nat

/-- The owning emulator that RaiseIRQ goes to (R29). A free value (log 3). -/
opaque emulator : Nat

/-- The hooks of a driver the host has not described: a property of the handle that the host supplies (R73, U31).
A free value (log 4). -/
opaque caps : Handle → Caps

end Config

end Sys2Proof
end

