-- ==== Sys2Proof/Machine/Params.lean ====
section
/-! DEFINITION. The parameters' default values, their constraints, and what the block reads from them (00_scope.md R7, R8;
40_mode_controller.md R103, R104; 60_exceptions.md R262). -/

namespace Sys2Proof.Machine

open Sys2Proof

/-- The default parameters of R7. PRESUMED values of the family where R7 marks them general knowledge (log 2); free
values where R7 says OPEN or abstract (log 3); no driver described (log 4). -/
def defaultParams : Params where
  rcntReset := 0x8000
  normal32 := [1, 3]
  joybus := [12, 13, 14, 15]
  noData := Config.noData
  connectAddr := 0x7F000001
  connectPort := Config.connectPort
  qReady := 0x0004
  qStart := 0x0080
  qIntClk := 0x0001
  qIrqEn := 0x4000
  qMultiMask := 0xFF83
  qMultiForce := 0x000C
  irqSio := Config.irqSio
  emulator := Config.emulator
  caps := []

/-- SIOCNT_MODE_MASK (R7): the bits of SIOCNT the block retains (R24). -/
def siocntModeMask : Word := 0x3000

/-- RCNT_KEEP_MASK (R7): the bits of `rcnt` that writes preserve (R100). -/
def rcntKeepMask : Word := 0x000F

/-- The words with exactly one bit set. -/
def isSingleBit (v : Word) : Bool := (List.range 16).any fun i => v == (1#16 <<< i)

/-- The words with exactly two bits set. -/
def isTwoBits (v : Word) : Bool :=
  (List.range 16).any fun i => (List.range i).any fun j => v == ((1#16 <<< i) ||| (1#16 <<< j))

/-- The constraints R8 puts on the quirk's bits (those on MODE_MAP hold of every value of `Params`). -/
def paramsOk (p : Params) : Bool :=
  isSingleBit p.qReady && isSingleBit p.qStart && isSingleBit p.qIntClk && isSingleBit p.qIrqEn &&
  decide ([p.qReady, p.qStart, p.qIntClk, p.qIrqEn].Nodup) &&
  ((p.qReady ||| p.qStart ||| p.qIntClk ||| p.qIrqEn) &&& siocntModeMask == 0) &&
  isTwoBits p.qMultiForce

/-- `caps(d)` (R262): as the host described the driver; a free value where it did not (log 4). -/
def capsOf (p : Params) (d : Handle) : Caps :=
  match p.caps.find? (fun entry => entry.1 == d) with
  | some entry => entry.2
  | none => Config.caps d

/-- MODE_MAP (R103): below 8 a Normal mode chosen by the low two bits, otherwise Multiplayer or Joybus. -/
def modeMap (p : Params) (s : BitVec 4) : LinkMode :=
  if s < 8 then
    if p.normal32.contains (s.extractLsb' 0 2) then .normal32 else .normal8
  else
    if p.joybus.contains s then .joybus else .multiplayer

/-- The selector: `rcnt[15:14]` high, `siocnt[13:12]` low (R102). -/
def selector (rcnt siocnt : Word) : BitVec 4 := rcnt.extractLsb' 14 2 ++ siocnt.extractLsb' 12 2

/-- The link mode the two control registers select (R106, R107). -/
def deriveMode (p : Params) (rcnt siocnt : Word) : LinkMode := modeMap p (selector rcnt siocnt)

/-- Which slot serves a link mode (R27). -/
def slotOf : LinkMode → Option Slot
  | .normal8 => some .normal
  | .normal32 => some .normal
  | .multiplayer => some .multiplayer
  | .joybus => some .joybus
  | .unset => none

end Sys2Proof.Machine
end

