-- ==== Sys2Proof/Machine/State.lean ====
section
/-! DEFINITION. The state of the SIO controller (10_state.md R20 to R42), as plain data: the SIOContext, the RelayState, the
event history, the suspended operation, and the inputs the outside agents supply. -/

namespace Sys2Proof.Machine

open Sys2Proof

/-- What `Log(kind)` reports (R265). -/
inductive LogKind where
  | unsupportedMode | initFailed
deriving DecidableEq, Repr

/-- The events the block emits (R40). `raiseIrq` names the owning emulator it goes to (R29) and the source. -/
inductive Event where
  | attach (d : Handle)
  | init (d : Handle)
  | deinit (d : Handle)
  | load (d : Handle)
  | unload (d : Handle)
  | drvWrite (d : Handle) (reg : RegId) (value : Word)
  | raiseIrq (emulator source : Nat)
  | sockConnect (addr : Word32) (port : Word)
  | sockSend (bytes : List Byte)
  | sockRecv
  | sockClose (h : SockHandle)
  | log (kind : LogKind)
deriving DecidableEq, Repr

/-- One line of a request's pseudocode, its operands computed: an event (`emit`, `call`: R10), the lines that depend on the
answer of `Init` (R110), or the write of one field. A request is performed as a list of them, so that what is left of a
suspended request is plain data (R41). -/
inductive Act where
  /-- `emit e`: nothing is waited for -/
  | emit (e : Event)
  /-- `call e`: waits for the agent's answer -/
  | call (e : Event)
  /-- `if r == fail: call e` -/
  | callIfFailed (e : Event)
  /-- `if r == fail: emit e` -/
  | emitIfFailed (e : Event)
  /-- `if r == fail: return` -/
  | returnIfFailed
  /-- `out <- v` -/
  | setOut (v : Word)
  | setRcnt (v : Word)
  | setSiocnt (v : Word)
  | setMode (m : LinkMode)
  | setActive (k : Option Slot)
  | setSlot (k : Slot) (d : Option Handle)
  | setAlive (b : Bool)
  | setTmode (t : TMode)
  | setBuf (bytes : List Byte)
  | setCrc (v : Word32)
  | setLength (v : Word)
  | setInCount (v : Word)
  | setOutCount (v : Word)
  | setPendAddr (v : Word32)
  | setPendPort (v : Word)
  | setSock (h : Option SockHandle)
deriving DecidableEq, Repr

/-- The suspended operation (R41): none, or the call it waits on, the answer `r` of its `Init` (true until one fails), and
the lines of its pseudocode that are still to run. -/
inductive Pending where
  | idle
  | held (call : Event) (r : Bool) (rest : List Act)
deriving DecidableEq, Repr

/-- An agent's answer to a call, a draw under no law (R262, R263). A call takes the component it asks for: `ok` for Init
and SockConnect, `handle` (the socket's name for the connection) for a connect that succeeds, `value` for DrvWrite, `byte` for SockRecv, and none for a call with
no answer (log 9). -/
structure Answer where
  ok : Bool := true
  value : Word := 0
  byte : Byte := 0
  handle : Nat := 0
deriving DecidableEq, Repr

/-- What an agent does while the block waits on it: answer, or issue a request to the block (R267). -/
inductive Reply where
  | answer (a : Answer)
  | request (w : ReqWord)
deriving DecidableEq, Repr

/-- The SIOContext (R23 to R30). `activeDriver` is the slot name of R28; the driver it denotes is `SioContext.active`
in Machine/Ops.lean (log 7). -/
structure SioContext where
  rcnt : Word
  siocnt : Word
  mode : LinkMode
  slotNormal : Option Handle
  slotMultiplayer : Option Handle
  slotJoybus : Option Handle
  activeDriver : Option Slot
  alive : Bool
deriving DecidableEq, Repr

/-- The RelayState (R31 to R39). `buf` holds the `cursor` bytes stored (R32, log 6). -/
structure RelayState where
  tmode : TMode
  buf : List Byte
  crc : Word32
  length : Word
  inCount : Word
  outCount : Word
  outLength : Word
  pendAddr : Word32
  pendPort : Word
  sock : Option SockHandle
deriving DecidableEq, Repr

/-- `cursor` (R33): how many bytes the command buffer holds. -/
abbrev RelayState.cursor (r : RelayState) : Nat := r.buf.length

/-- The whole state. `params` are the parameters (no step writes them), `out` the value the last request returned, `port`
the requests the requester will present and `replies` what the called agents will do, each first first (log 8, 9);
`connects` counts the connects that have succeeded, so that the next one's handle is fresh (R263, log 28). -/
structure State where
  params : Params
  ctx : SioContext
  relay : RelayState
  hist : List Event
  pending : Pending
  out : Option Word
  port : List ReqWord
  replies : List Reply
  connects : Nat
deriving DecidableEq, Repr

/-- The block raises no exception and nothing is fatal (R250): there is no fault, and this type has no member (log 24).
Safe: no claim can rest on a fault. -/
inductive Fault where
deriving DecidableEq, Repr

/-- Why the block gives a request no meaning (R10, R252). -/
inductive Refusal where
  /-- an instruction with no meaning in this model; raised by no arm of exec. Safe: the run stops. -/
  | notModelled (mnemonic : String)
  /-- a reserved request kind (R71), raised by the eight RESERVED_OP rows. Safe: the spec refuses it. -/
  | reservedOp (op : BitVec 4)
  /-- a request after DESTROY, while `alive = 0` (R30), raised by every other request. Safe: the spec refuses it. -/
  | destroyed
  /-- a request issued while another waits on a call (R267), raised by every request but a reserved one, and by a step
  whose agent issues a request in place of an answer. Safe: the spec refuses it. -/
  | reentrant
deriving DecidableEq, Repr

/-- The SIOContext at construction, before construction's reset runs (R42, R283). -/
def SioContext.constructed : SioContext where
  rcnt := 0x8000
  siocnt := 0x0000
  mode := .unset
  slotNormal := none
  slotMultiplayer := none
  slotJoybus := none
  activeDriver := none
  alive := true

/-- The RelayState at construction (R42, D16). -/
def RelayState.constructed : RelayState where
  tmode := .idle
  buf := []
  crc := 0
  length := 0
  inCount := 0
  outCount := 0
  outLength := 0
  pendAddr := 0
  pendPort := 0
  sock := none

/-- The block as the host creates it, before construction's reset runs (R283). -/
def State.constructed : State where
  params := defaultParams
  ctx := .constructed
  relay := .constructed
  hist := []
  pending := .idle
  out := none
  port := []
  replies := []
  connects := 0

/-- The machine right after reset: construction has run its one `reset` (R42, R283), under the default parameters. -/
def State.reset : State :=
  { State.constructed with
    ctx := { SioContext.constructed with mode := .multiplayer, activeDriver := some .multiplayer } }

end Sys2Proof.Machine
end

