-- ==== Sys2Proof/Machine/Flags.lean ====
section
/-! DEFINITION. The bit computations on control-register values. The block has no status flags (10_state.md R22); what it
computes bit by bit is the merge of RCNT (R100), the mode-select bits of SIOCNT (R101) and the SIOCNT quirk (R141). -/

namespace Sys2Proof.Machine

open Sys2Proof

/-- What WRCNT stores: the upper 12 bits of the value, the lower 4 of the register (R100). -/
def mergeRcnt (rcnt value : Word) : Word := (rcnt &&& rcntKeepMask) ||| (value &&& ~~~rcntKeepMask)

/-- "if those bits changed": the mode-select bits of the value differ from `siocnt` (R101). -/
def modeBitsChanged (siocnt value : Word) : Bool := ((value ^^^ siocnt) &&& siocntModeMask) != 0

/-- What WSIOCNT stores of a value (R24, R101). -/
def keepModeBits (value : Word) : Word := value &&& siocntModeMask

/-- A bit or mask of the value is not clear (R141). -/
def bitSet (v mask : Word) : Bool := (v &&& mask) != 0

/-- The quirk in the Normal modes (R141): ready forced on; a start with the internal enable completes at once, so the
start bit is cleared, and raises the interrupt if the interrupt enable is set. -/
def normalQuirk (p : Params) (value : Word) : Word × Bool :=
  let v := value ||| p.qReady
  if bitSet v p.qStart && bitSet v p.qIntClk then
    let cleared := v &&& ~~~p.qStart
    (cleared, bitSet cleared p.qIrqEn)
  else (v, false)

/-- The SIOCNT quirk (R141): the value the write returns, and whether the serial interrupt is raised. Joybus is passed
through, exactly as the spec keeps it (R143). -/
def quirk (p : Params) (m : LinkMode) (value : Word) : Word × Bool :=
  match m with
  | .normal8 => normalQuirk p value
  | .normal32 => normalQuirk p value
  | .multiplayer => ((value &&& p.qMultiMask) ||| p.qMultiForce, false)
  | .joybus => (value, false)
  | .unset => (value, false)

end Sys2Proof.Machine
end

