-- ==== Sys2Proof/WellFormed.lean ====
section
/-! DEFINITION. Which operand values the encodings admit: the byte ranges of the write table's rows (30_encoding.md R74)
and the payload of a frame (R76). A bit-vector operand of any other constructor is well formed at every value. -/

namespace Sys2Proof

/-- A payload a frame can carry: at most 254 bytes, none the terminator 0xFE (R76, R77). -/
def payloadFits (payload : List Byte) : Bool :=
  decide (payload.length ≤ 254) && !payload.contains 0xFE

/-- The operands are ones the instruction's encoding admits. -/
def Instr.wellFormed : Instr → Bool
  | .wrcnt _ => true
  | .wsiocnt _ => true
  | .wdata _ => true
  | .rdata => true
  | .wother _ _ => true
  | .reset => true
  | .setdrv _ _ => true
  | .destroy => true
  | .reservedOp0 => true
  | .reservedOp6 => true
  | .reservedOp7 => true
  | .reservedOpB => true
  | .reservedOpC => true
  | .reservedOpD => true
  | .reservedOpE => true
  | .reservedOpF => true
  | .wdataStart => true
  | .wdataIdleIgn b => b != 0x89
  | .wdataCancel00 => true
  | .wdataCancel01 => true
  | .wdataCancelFE => true
  | .wdataCancelFF => true
  | .wdataCmdSend => true
  | .wdataCmdRecv => true
  | .wdataCmdDuplex => true
  | .wdataCmdConnect => true
  | .wdataCmdDisconnect => true
  | .wdataCmdDns => true
  | .wdataCodeDrop b => decide (0x08 ≤ b) && decide (b ≤ 0xFD)
  | .wdataTerm => true
  | .wdataAppend b => b != 0xFE
  | .wdataOverflow b => b != 0xFE
  | .wdataPayloadOut _ => true
  | .wdataDuplexOut _ => true
  | .wdataXferIgn _ => true
  | .rdataReadNodata => true
  | .rdataPayloadIn => true
  | .rdataDuplexIn => true
  | .rdataReadEstab => true
  | .cmdSend ps => payloadFits ps
  | .cmdRecv ps => payloadFits ps
  | .cmdDuplex ps => payloadFits ps
  | .cmdConnect ps => payloadFits ps
  | .cmdDisconnect ps => payloadFits ps
  | .cmdDns ps => payloadFits ps

/-- The instruction is a request kind, reserved or not (R70, R71): one word says all of it. -/
def Instr.isRequest : Instr → Bool
  | .wrcnt _ => true
  | .wsiocnt _ => true
  | .wdata _ => true
  | .rdata => true
  | .wother _ _ => true
  | .reset => true
  | .setdrv _ _ => true
  | .destroy => true
  | .reservedOp0 => true
  | .reservedOp6 => true
  | .reservedOp7 => true
  | .reservedOpB => true
  | .reservedOpC => true
  | .reservedOpD => true
  | .reservedOpE => true
  | .reservedOpF => true
  | .wdataStart => false
  | .wdataIdleIgn _ => false
  | .wdataCancel00 => false
  | .wdataCancel01 => false
  | .wdataCancelFE => false
  | .wdataCancelFF => false
  | .wdataCmdSend => false
  | .wdataCmdRecv => false
  | .wdataCmdDuplex => false
  | .wdataCmdConnect => false
  | .wdataCmdDisconnect => false
  | .wdataCmdDns => false
  | .wdataCodeDrop _ => false
  | .wdataTerm => false
  | .wdataAppend _ => false
  | .wdataOverflow _ => false
  | .wdataPayloadOut _ => false
  | .wdataDuplexOut _ => false
  | .wdataXferIgn _ => false
  | .rdataReadNodata => false
  | .rdataPayloadIn => false
  | .rdataDuplexIn => false
  | .rdataReadEstab => false
  | .cmdSend _ => false
  | .cmdRecv _ => false
  | .cmdDuplex _ => false
  | .cmdConnect _ => false
  | .cmdDisconnect _ => false
  | .cmdDns _ => false

/-- The instruction is a reserved request kind (R71). -/
def Instr.isReserved : Instr → Bool
  | .wrcnt _ => false
  | .wsiocnt _ => false
  | .wdata _ => false
  | .rdata => false
  | .wother _ _ => false
  | .reset => false
  | .setdrv _ _ => false
  | .destroy => false
  | .reservedOp0 => true
  | .reservedOp6 => true
  | .reservedOp7 => true
  | .reservedOpB => true
  | .reservedOpC => true
  | .reservedOpD => true
  | .reservedOpE => true
  | .reservedOpF => true
  | .wdataStart => false
  | .wdataIdleIgn _ => false
  | .wdataCancel00 => false
  | .wdataCancel01 => false
  | .wdataCancelFE => false
  | .wdataCancelFF => false
  | .wdataCmdSend => false
  | .wdataCmdRecv => false
  | .wdataCmdDuplex => false
  | .wdataCmdConnect => false
  | .wdataCmdDisconnect => false
  | .wdataCmdDns => false
  | .wdataCodeDrop _ => false
  | .wdataTerm => false
  | .wdataAppend _ => false
  | .wdataOverflow _ => false
  | .wdataPayloadOut _ => false
  | .wdataDuplexOut _ => false
  | .wdataXferIgn _ => false
  | .rdataReadNodata => false
  | .rdataPayloadIn => false
  | .rdataDuplexIn => false
  | .rdataReadEstab => false
  | .cmdSend _ => false
  | .cmdRecv _ => false
  | .cmdDuplex _ => false
  | .cmdConnect _ => false
  | .cmdDisconnect _ => false
  | .cmdDns _ => false

/-- The instruction is a whole frame (R76). -/
def Instr.isFrame : Instr → Bool
  | .wrcnt _ => false
  | .wsiocnt _ => false
  | .wdata _ => false
  | .rdata => false
  | .wother _ _ => false
  | .reset => false
  | .setdrv _ _ => false
  | .destroy => false
  | .reservedOp0 => false
  | .reservedOp6 => false
  | .reservedOp7 => false
  | .reservedOpB => false
  | .reservedOpC => false
  | .reservedOpD => false
  | .reservedOpE => false
  | .reservedOpF => false
  | .wdataStart => false
  | .wdataIdleIgn _ => false
  | .wdataCancel00 => false
  | .wdataCancel01 => false
  | .wdataCancelFE => false
  | .wdataCancelFF => false
  | .wdataCmdSend => false
  | .wdataCmdRecv => false
  | .wdataCmdDuplex => false
  | .wdataCmdConnect => false
  | .wdataCmdDisconnect => false
  | .wdataCmdDns => false
  | .wdataCodeDrop _ => false
  | .wdataTerm => false
  | .wdataAppend _ => false
  | .wdataOverflow _ => false
  | .wdataPayloadOut _ => false
  | .wdataDuplexOut _ => false
  | .wdataXferIgn _ => false
  | .rdataReadNodata => false
  | .rdataPayloadIn => false
  | .rdataDuplexIn => false
  | .rdataReadEstab => false
  | .cmdSend _ => true
  | .cmdRecv _ => true
  | .cmdDuplex _ => true
  | .cmdConnect _ => true
  | .cmdDisconnect _ => true
  | .cmdDns _ => true

end Sys2Proof
end

