-- ==== Sys2Proof/Decode.lean ====
section
/-! DEFINITION. The two levels of decoding of 30_encoding.md: request words (R70 to R73), and the bytes of DATA writes,
read by transfer mode and cursor (R74, R75) and as whole frames (R76 to R78); then the encoder. -/

namespace Sys2Proof

/-! ### Fields of a request word (R70) -/

/-- `op`, bits 35:32. -/
def opField (w : ReqWord) : BitVec 4 := w.extractLsb' 32 4

/-- `aux`, bits 31:16. -/
def auxField (w : ReqWord) : Word := w.extractLsb' 16 16

/-- `data`, bits 15:0. -/
def dataField (w : ReqWord) : Word := w.extractLsb' 0 16

/-- `op << 32 | aux << 16 | data` (R83). -/
def requestWord (op : BitVec 4) (aux data : Word) : ReqWord := op ++ aux ++ data

/-- `b = value[7:0]` of a DATA write; `value[15:8]` is ignored (R74, R220). -/
def lowByte (value : Word) : Byte := value.extractLsb' 0 8

/-- A byte zero-extended to 16 bits (R9, R224). -/
def zext16 (b : Byte) : Word := b.setWidth 16

/-! ### Protocol constants (R7) -/

/-- FRAME_START. -/
abbrev frameStart : Byte := 0x89

/-- FRAME_TERM. -/
abbrev frameTerm : Byte := 0xFE

/-! ### Requests -/

/-- The request kind and its operands. Fields a kind ignores are dropped (R70, R72). Every op value has its arm: the
last is 0xF, the only one left of the sixteen. -/
def decode (w : ReqWord) : Instr :=
  match (opField w).toNat with
  | 0x0 => .reservedOp0
  | 0x1 => .wrcnt (dataField w)
  | 0x2 => .wsiocnt (dataField w)
  | 0x3 => .wdata (dataField w)
  | 0x4 => .rdata
  | 0x5 => .wother (auxField w) (dataField w)
  | 0x6 => .reservedOp6
  | 0x7 => .reservedOp7
  | 0x8 => .reset
  | 0x9 => .setdrv ((auxField w).extractLsb' 0 3) (dataField w)
  | 0xA => .destroy
  | 0xB => .reservedOpB
  | 0xC => .reservedOpC
  | 0xD => .reservedOpD
  | 0xE => .reservedOpE
  | _ => .reservedOpF

/-- Why a number is no request word. -/
inductive WordReject where
  /-- it needs more than 36 bits: no request has another length (R70) -/
  | tooWide
deriving DecidableEq, Repr

/-- The request a number of any size stands for, or why it stands for none. -/
def decodeNat (n : Nat) : Except WordReject Instr :=
  if n < 2 ^ 36 then .ok (decode (BitVec.ofNat 36 n)) else .error .tooWide

/-- The instruction the decoder reads from an instruction whose bits are `w`. A request has 36 bits whatever the row's
`nbits`; a frame row is no single request word, and its first word reads as the WDATA it is (log 18). -/
def decodeTableWord (_nbits w : Nat) : Option Instr :=
  match decodeNat w with
  | .ok i => some i
  | .error _ => none

/-! ### The data register's tables (R74, R75) -/

/-- The row a first byte of a frame takes (R74, Parse with cursor = 0). -/
def firstByteRow (b : Byte) : WriteRow :=
  if b = 0x00 then .cancel00
  else if b = 0x01 then .cancel01
  else if b = 0xFE then .cancelFE
  else if b = 0xFF then .cancelFF
  else if b = 0x02 then .cmdSend
  else if b = 0x03 then .cmdRecv
  else if b = 0x04 then .cmdDuplex
  else if b = 0x05 then .cmdConnect
  else if b = 0x06 then .cmdDisconnect
  else if b = 0x07 then .cmdDns
  else .codeDrop

/-- The row a DATA write of `b` takes (R74). BUF_CAP = 255: a byte is appended while `cursor < 255` (D13). -/
def writeRow (t : TMode) (cursor : Nat) (b : Byte) : WriteRow :=
  match t with
  | .idle => if b = frameStart then .start else .idleIgn
  | .parse =>
    if cursor = 0 then firstByteRow b
    else if b = frameTerm then .term
    else if cursor < 255 then .append
    else .overflow
  | .send => .payloadOut
  | .sendRecv => .duplexOut
  | .recv => .xferIgn
  | .estab => .xferIgn
  | .reserved => .xferIgn

/-- The row a DATA read takes (R75). -/
def readRow (t : TMode) : ReadRow :=
  match t with
  | .idle => .nodata
  | .parse => .nodata
  | .send => .nodata
  | .reserved => .nodata
  | .recv => .payloadIn
  | .sendRecv => .duplexIn
  | .estab => .estab

/-- Both levels: the row of the opcode table that a request word takes in a transfer mode with a cursor. "The decode
state is `tmode` and `cursor` alone" (R82). -/
def decodeAt (t : TMode) (cursor : Nat) (w : ReqWord) : Instr :=
  match decode w with
  | .wdata value => (writeRow t cursor (lowByte value)).instr (lowByte value)
  | .rdata => (readRow t).instr
  | i => i

/-! ### Frames (R76 to R78) -/

/-- The command of a code byte (R78); none for a byte that is no code. -/
def commandOf (code : Byte) : Option Command :=
  match code.toNat with
  | 0x02 => some .send
  | 0x03 => some .recv
  | 0x04 => some .duplex
  | 0x05 => some .connect
  | 0x06 => some .disconnect
  | 0x07 => some .dns
  | _ => none

/-- The code byte of a command (R78). -/
def Command.code : Command → Byte
  | .send => 0x02
  | .recv => 0x03
  | .duplex => 0x04
  | .connect => 0x05
  | .disconnect => 0x06
  | .dns => 0x07

/-- Why a byte sequence begins no frame. -/
inductive FrameReject where
  /-- its first byte is not 0x89 (R161) -/
  | noStart
  /-- a cancel byte stands where the code is due (R164) -/
  | cancelled
  /-- a 255th payload byte stands where the terminator is due (R167) -/
  | overflow
  /-- it ends before the terminator (R82) -/
  | unterminated
deriving DecidableEq, Repr

/-- The bytes up to the terminator, and what follows it; `room` payload bytes may still come. -/
def takePayload : Nat → List Byte → Except FrameReject (List Byte × List Byte)
  | _, [] => .error .unterminated
  | 0, b :: rest => if b = frameTerm then .ok ([], rest) else .error .overflow
  | room + 1, b :: rest =>
    if b = frameTerm then .ok ([], rest)
    else match takePayload room rest with
      | .ok (ps, after) => .ok (b :: ps, after)
      | .error r => .error r

/-- What follows 0x89: dropped bytes, then a code and its payload (R76). -/
def takeCode : List Byte → Except FrameReject (Instr × List Byte)
  | [] => .error .unterminated
  | b :: rest =>
    if firstByteRow b = .codeDrop then takeCode rest
    else match commandOf b with
      | none => .error .cancelled
      | some c => match takePayload 254 rest with
        | .ok (ps, after) => .ok (c.instr ps, after)
        | .error r => .error r

/-- The frame that a DATA byte sequence begins with, and the bytes after it; or why it begins with none. -/
def decodeFrame : List Byte → Except FrameReject (Instr × List Byte)
  | [] => .error .unterminated
  | b :: rest => if b = frameStart then takeCode rest else .error .noStart

/-! ### Encoder -/

/-- The WDATA request that writes `b`. -/
def dataWord (b : Byte) : ReqWord := requestWord 0x3 0 (zext16 b)

/-- The RDATA request. -/
def readWord : ReqWord := requestWord 0x4 0 0

/-- `0x89, code, p1, ..., pn, 0xFE` (R76). -/
def frameBytes (c : Command) (payload : List Byte) : List Byte :=
  frameStart :: c.code :: (payload ++ [frameTerm])

/-- The request words of an instruction, fields it ignores written as 0 (log 17). -/
def encode : Instr → List ReqWord
  | .wrcnt value => [requestWord 0x1 0 value]
  | .wsiocnt value => [requestWord 0x2 0 value]
  | .wdata value => [requestWord 0x3 0 value]
  | .rdata => [readWord]
  | .wother off value => [requestWord 0x5 off value]
  | .reset => [requestWord 0x8 0 0]
  | .setdrv code handle => [requestWord 0x9 (code.setWidth 16) handle]
  | .destroy => [requestWord 0xA 0 0]
  | .reservedOp0 => [requestWord 0x0 0 0]
  | .reservedOp6 => [requestWord 0x6 0 0]
  | .reservedOp7 => [requestWord 0x7 0 0]
  | .reservedOpB => [requestWord 0xB 0 0]
  | .reservedOpC => [requestWord 0xC 0 0]
  | .reservedOpD => [requestWord 0xD 0 0]
  | .reservedOpE => [requestWord 0xE 0 0]
  | .reservedOpF => [requestWord 0xF 0 0]
  | .wdataStart => [dataWord frameStart]
  | .wdataIdleIgn b => [dataWord b]
  | .wdataCancel00 => [dataWord 0x00]
  | .wdataCancel01 => [dataWord 0x01]
  | .wdataCancelFE => [dataWord 0xFE]
  | .wdataCancelFF => [dataWord 0xFF]
  | .wdataCmdSend => [dataWord 0x02]
  | .wdataCmdRecv => [dataWord 0x03]
  | .wdataCmdDuplex => [dataWord 0x04]
  | .wdataCmdConnect => [dataWord 0x05]
  | .wdataCmdDisconnect => [dataWord 0x06]
  | .wdataCmdDns => [dataWord 0x07]
  | .wdataCodeDrop b => [dataWord b]
  | .wdataTerm => [dataWord frameTerm]
  | .wdataAppend b => [dataWord b]
  | .wdataOverflow b => [dataWord b]
  | .wdataPayloadOut b => [dataWord b]
  | .wdataDuplexOut b => [dataWord b]
  | .wdataXferIgn b => [dataWord b]
  | .rdataReadNodata => [readWord]
  | .rdataPayloadIn => [readWord]
  | .rdataDuplexIn => [readWord]
  | .rdataReadEstab => [readWord]
  | .cmdSend ps => (frameBytes .send ps).map dataWord
  | .cmdRecv ps => (frameBytes .recv ps).map dataWord
  | .cmdDuplex ps => (frameBytes .duplex ps).map dataWord
  | .cmdConnect ps => (frameBytes .connect ps).map dataWord
  | .cmdDisconnect ps => (frameBytes .disconnect ps).map dataWord
  | .cmdDns ps => (frameBytes .dns ps).map dataWord

end Sys2Proof
end

