-- ==== Sys2Proof/Machine/Operands.lean ====
section
/-! DEFINITION. The operand forms: little-endian assembly (00_scope.md R11), the fields a frame's bytes give (30_encoding.md
R79), the Send header (R80), and the SETDRV operands (R72, R73). -/

namespace Sys2Proof.Machine

open Sys2Proof

/-- `le16(b0, b1)`, the first byte the less significant (R11). -/
def le16 (b0 b1 : Byte) : Word := b0.setWidth 16 ||| (b1.setWidth 16 <<< 8)

/-- `le32(b0, b1, b2, b3)`, the first byte the least significant (R11). -/
def le32 (b0 b1 b2 b3 : Byte) : Word32 :=
  b0.setWidth 32 ||| (b1.setWidth 32 <<< 8) ||| (b2.setWidth 32 <<< 16) ||| (b3.setWidth 32 <<< 24)

/-- `buf[i]`; every read is of an `i` below the cursor (R32, R190). -/
def bufByte (buf : List Byte) (i : Nat) : Byte := buf.getD i 0

/-- `le32(buf[1..4])`: crcField of Send, ipField of Connect (R79). -/
def field32 (buf : List Byte) : Word32 := le32 (bufByte buf 1) (bufByte buf 2) (bufByte buf 3) (bufByte buf 4)

/-- `le16(buf[5..6])`: lenField of Send, portField of Connect (R79). -/
def field16 (buf : List Byte) : Word := le16 (bufByte buf 5) (bufByte buf 6)

/-- The six header bytes Send writes to the socket, in the order [2, 1, 6, 5, 4, 3] (R80). -/
def sendHeader (buf : List Byte) : List Byte := [2, 1, 6, 5, 4, 3].map (bufByte buf)

/-- The link mode a SETDRV mode code names (R72). -/
def modeOfCode (code : BitVec 3) : Option LinkMode :=
  match code.toNat with
  | 0 => some .normal8
  | 1 => some .normal32
  | 2 => some .multiplayer
  | 3 => some .joybus
  | 4 => some .unset
  | _ => none

/-- The slot a SETDRV names; none is the unsupported mode of R111. -/
def slotOfCode (code : BitVec 3) : Option Slot := (modeOfCode code).bind slotOf

/-- The driver a SETDRV installs: 0 is the null driver (R73). -/
def driverOf (handle : Handle) : Option Handle := if handle = 0 then none else some handle

end Sys2Proof.Machine
end

