-- ==== Sys2Proof/Machine/Ops.lean ====
section
/-! DEFINITION. The shared operations: what one line of pseudocode does, how a request runs, waits and resumes, and the
steps several requests share. The block takes no exception and returns from none (60_exceptions.md R255, R256); its one
interrupt is the event `raiseIrq`. -/

namespace Sys2Proof.Machine

open Sys2Proof

/-! ### Named updates of the state -/

/-- `emit E`: append the event to the history (R10, R40). -/
def State.emit (s : State) (e : Event) : State := { s with hist := s.hist ++ [e] }

/-- `out <- v`, or nothing returned (R10). -/
def State.withOut (s : State) (v : Option Word) : State := { s with out := v }

def State.withPending (s : State) (p : Pending) : State := { s with pending := p }

def State.withReplies (s : State) (rs : List Reply) : State := { s with replies := rs }

def State.withConnects (s : State) (n : Nat) : State := { s with connects := n }

def State.withPort (s : State) (ws : List ReqWord) : State := { s with port := ws }

def State.withCtx (s : State) (c : SioContext) : State := { s with ctx := c }

def State.withRelay (s : State) (r : RelayState) : State := { s with relay := r }

/-! ### Slots and drivers -/

/-- `slot[k]` (R26). -/
def SioContext.slot (c : SioContext) : Slot → Option Handle
  | .normal => c.slotNormal
  | .multiplayer => c.slotMultiplayer
  | .joybus => c.slotJoybus

/-- `slot[k] <- d` (R26). -/
def SioContext.setSlot (c : SioContext) (k : Slot) (d : Option Handle) : SioContext :=
  match k with
  | .normal => { c with slotNormal := d }
  | .multiplayer => { c with slotMultiplayer := d }
  | .joybus => { c with slotJoybus := d }

/-- `lookup(m)`: the driver that serves a link mode, if its slot holds one (R28). -/
def SioContext.lookup (c : SioContext) (m : LinkMode) : Option Handle := (slotOf m).bind c.slot

/-- The driver that `activeDriver` denotes: what the slot it names holds (R28, log 7). -/
def SioContext.active (c : SioContext) : Option Handle := c.activeDriver.bind c.slot

/-! ### Running a request -/

/-- The event an act waits on, `r` being the answer of Init. -/
def Act.waitsOn (r : Bool) : Act → Option Event
  | .call e => some e
  | .callIfFailed e => if r then none else some e
  | _ => none

/-- The act ends the request (R110, the failed init). -/
def Act.returns (r : Bool) : Act → Bool
  | .returnIfFailed => !r
  | _ => false

/-- What an act that waits on nothing does. -/
def Act.apply (r : Bool) (s : State) : Act → State
  | .emit e => s.emit e
  | .call _ => s
  | .callIfFailed _ => s
  | .emitIfFailed e => if r then s else s.emit e
  | .returnIfFailed => s
  | .setOut v => s.withOut (some v)
  | .setRcnt v => s.withCtx { s.ctx with rcnt := v }
  | .setSiocnt v => s.withCtx { s.ctx with siocnt := v }
  | .setMode m => s.withCtx { s.ctx with mode := m }
  | .setActive k => s.withCtx { s.ctx with activeDriver := k }
  | .setSlot k d => s.withCtx (s.ctx.setSlot k d)
  | .setAlive b => s.withCtx { s.ctx with alive := b }
  | .setTmode t => s.withRelay { s.relay with tmode := t }
  | .setBuf bytes => s.withRelay { s.relay with buf := bytes }
  | .setCrc v => s.withRelay { s.relay with crc := v }
  | .setLength v => s.withRelay { s.relay with length := v }
  | .setInCount v => s.withRelay { s.relay with inCount := v }
  | .setOutCount v => s.withRelay { s.relay with outCount := v }
  | .setPendAddr v => s.withRelay { s.relay with pendAddr := v }
  | .setPendPort v => s.withRelay { s.relay with pendPort := v }
  | .setSock h => s.withRelay { s.relay with sock := h }

/-- What the answer of a writeRegister hook leaves: nothing for RCNT, whose answer is discarded (R100), otherwise the
request's return value (R101, R140). -/
def State.useValue (s : State) (reg : RegId) (v : Word) : State :=
  match reg with
  | .rcnt => s
  | .siocnt => s.withOut (some v)
  | .other _ => s.withOut (some v)

/-- The fresh handle of a connect that succeeds now: no earlier one had its serial (R263, log 28). -/
def State.freshHandle (s : State) (a : Answer) : SockHandle := { serial := s.connects, name := a.handle }

/-- What the answer of a connect leaves: a fresh handle in the socket if it succeeded (R195, R263). -/
def State.useConnect (s : State) (a : Answer) : State :=
  if a.ok then (s.withRelay { s.relay with sock := some (s.freshHandle a) }).withConnects (s.connects + 1) else s

/-- What the answer to a call leaves in the block: that of DrvWrite, the byte of SockRecv (R224), the handle of
SockConnect; nothing of any other call. -/
def State.useAnswer (s : State) (e : Event) (a : Answer) : State :=
  match e with
  | .attach _ => s
  | .init _ => s
  | .deinit _ => s
  | .load _ => s
  | .unload _ => s
  | .drvWrite _ reg _ => s.useValue reg a.value
  | .raiseIrq _ _ => s
  | .sockConnect _ _ => s.useConnect a
  | .sockSend _ => s
  | .sockRecv => s.withOut (some (zext16 a.byte))
  | .sockClose _ => s
  | .log _ => s

/-- `r` after a call: the answer of Init, as it was after any other (R110). -/
def answerR (r : Bool) (e : Event) (a : Answer) : Bool :=
  match e with
  | .init _ => a.ok
  | _ => r

/-- The request is complete: nothing is pending (R41). -/
def finished (s : State) : Host.Outcome State Fault Refusal := .next (s.withPending .idle)

/-- Performs the acts in order. A call takes the next reply: an answer, and the request goes on; none yet, and the
request is held there (R266); a request of the agent's own, and it is refused (R267). -/
def run (r : Bool) (acts : List Act) (s : State) : Host.Outcome State Fault Refusal :=
  match acts with
  | [] => finished s
  | a :: rest =>
    match a.waitsOn r with
    | some e =>
      match s.replies with
      | .answer x :: replies => run (answerR r e x) rest (((s.emit e).withReplies replies).useAnswer e x)
      | .request _ :: _ => .refused .reentrant
      | [] => .next ((s.emit e).withPending (.held e r rest))
    | none => if a.returns r then finished s else run r rest (a.apply r s)

/-- Goes on with a request that waits on the call `e`: its answer resumes it where it stopped (R41); while there is none
the block stays held (R266). -/
def resume (e : Event) (r : Bool) (acts : List Act) (s : State) : Host.Outcome State Fault Refusal :=
  match s.replies with
  | .answer x :: replies => run (answerR r e x) acts ((s.withReplies replies).useAnswer e x)
  | .request _ :: _ => .refused .reentrant
  | [] => .next s

/-- Accepts a request and performs it: refused while `alive = 0` (R30) or while another request waits (R267); nothing
is returned until the request says so (log 13). -/
def perform (acts : List Act) (s : State) : Host.Outcome State Fault Refusal :=
  if !s.ctx.alive then .refused .destroyed
  else if s.pending ≠ .idle then .refused .reentrant
  else run true acts (s.withOut none)

/-! ### Hook calls and the shared re-derivation step -/

/-- A call of a driver's hook, made only if the driver provides it (R262). -/
def hook (provided : Bool) (e : Event) : List Act := if provided then [.call e] else []

/-- `if d != none and unload in caps(d): call Unload(d)`. -/
def unloadActs (p : Params) : Option Handle → List Act
  | none => []
  | some d => hook (capsOf p d).unload (.unload d)

/-- `if d != none and load in caps(d): call Load(d)`. -/
def loadActs (p : Params) : Option Handle → List Act
  | none => []
  | some d => hook (capsOf p d).load (.load d)

/-- `if d != none and deinit in caps(d): call Deinit(d)`. -/
def deinitActs (p : Params) : Option Handle → List Act
  | none => []
  | some d => hook (capsOf p d).deinit (.deinit d)

/-- `rederive()` from mode `old` to mode `new` (R106): a change unloads the old mode's driver, reassigns `activeDriver`
and loads the new mode's. -/
def rederiveActs (p : Params) (c : SioContext) (old new : LinkMode) : List Act :=
  .setMode new ::
    if new = old then []
    else unloadActs p (c.lookup old) ++ .setActive (slotOf new) :: loadActs p (c.lookup new)

/-- The driver that claims a register write: the active one, if it has the writeRegister hook (R101, R140). -/
def claimant (p : Params) (c : SioContext) (m : LinkMode) : Option Handle :=
  (c.lookup m).filter fun d => (capsOf p d).writeRegister

end Sys2Proof.Machine
end

