-- ==== Sys2Proof/Machine/ModeController.lean ====
section
/-! DEFINITION. The Mode Controller's requests: WRCNT, WSIOCNT, SETDRV, DESTROY (40_mode_controller.md) and RESET
(70_reset_and_hazards.md R280). Each is the list of its pseudocode's lines, operands computed, and its meaning. -/

namespace Sys2Proof.Machine

open Sys2Proof

/-! ### Control-register writes -/

/-- The forward of a register write to the driver that claims it (R262). -/
def forwardActs (d : Handle) (reg : RegId) (value : Word) : List Act := [.call (.drvWrite d reg value)]

/-- WRCNT (R100): merge, re-derive, then forward the raw value to the driver active after re-derivation. -/
def wrcntActs (value : Word) (s : State) : List Act :=
  let rcnt := mergeRcnt s.ctx.rcnt value
  let mode := deriveMode s.params rcnt s.ctx.siocnt
  .setRcnt rcnt :: rederiveActs s.params s.ctx s.ctx.mode mode ++
    match claimant s.params s.ctx mode with
    | some d => forwardActs d .rcnt value
    | none => []

/-- The quirk's lines (R141): the interrupt if it is raised, and the value returned. -/
def quirkActs (p : Params) (m : LinkMode) (value : Word) : List Act :=
  (if (quirk p m value).2 then [.emit (.raiseIrq p.emulator p.irqSio)] else []) ++ [.setOut (quirk p m value).1]

/-- The link mode after a SIOCNT write (R101): re-derived only when the mode-select bits change. -/
def modeAfterSiocnt (value : Word) (s : State) : LinkMode :=
  if modeBitsChanged s.ctx.siocnt value then deriveMode s.params s.ctx.rcnt (keepModeBits value) else s.ctx.mode

/-- WSIOCNT (R101): re-derive on a change of the mode-select bits, then the claiming driver or the quirk. -/
def wsiocntActs (value : Word) (s : State) : List Act :=
  let mode := modeAfterSiocnt value s
  (if modeBitsChanged s.ctx.siocnt value then
      .setSiocnt (keepModeBits value) :: rederiveActs s.params s.ctx s.ctx.mode mode
    else []) ++
    match claimant s.params s.ctx mode with
    | some d => forwardActs d .siocnt value
    | none => quirkActs s.params mode value

/-- WRCNT `value` (R100). -/
def execWrcnt (value : Word) (s : State) : Host.Outcome State Fault Refusal := perform (wrcntActs value s) s

/-- WSIOCNT `value` (R101). -/
def execWsiocnt (value : Word) (s : State) : Host.Outcome State Fault Refusal := perform (wsiocntActs value s) s

/-! ### Reset -/

/-- RESET (R280): unload the active driver, the registers to their defaults, the mode to Unset, then re-derive. -/
def resetActs (s : State) : List Act :=
  unloadActs s.params (s.ctx.lookup s.ctx.mode) ++
    .setRcnt s.params.rcntReset :: .setSiocnt 0x0000 :: .setMode .unset :: .setActive none ::
      rederiveActs s.params s.ctx .unset (deriveMode s.params s.params.rcntReset 0x0000)

/-- RESET (R280). -/
def execReset (s : State) : Host.Outcome State Fault Refusal := perform (resetActs s) s

/-! ### Driver installation -/

/-- The slot is the one of the current mode, occupied or not (R110, D18). -/
def slotActive (c : SioContext) (k : Slot) : Bool := slotOf c.mode == some k

/-- The old driver of a slot is unloaded if the slot is active, then deinitialized (R110). -/
def retireActs (s : State) (k : Slot) : List Act :=
  (if slotActive s.ctx k then unloadActs s.params (s.ctx.slot k) else []) ++ deinitActs s.params (s.ctx.slot k)

/-- The incoming driver is attached and initialized; if that fails it is deinitialized, the failure is logged and the
installation ends with the slot unchanged (R110). -/
def initActs (p : Params) (d : Handle) : List Act :=
  .emit (.attach d) ::
    if (capsOf p d).init then
      .call (.init d) :: (if (capsOf p d).deinit then [.callIfFailed (.deinit d)] else []) ++
        [.emitIfFailed (.log .initFailed), .returnIfFailed]
    else []

/-- The slot takes the new driver, which becomes active and is loaded if the slot is active (R110). -/
def installActs (s : State) (k : Slot) (d : Option Handle) : List Act :=
  .setSlot k d :: if slotActive s.ctx k then .setActive (some k) :: loadActs s.params d else []

/-- SETDRV (R110 to R112). -/
def setdrvActs (code : BitVec 3) (handle : Handle) (s : State) : List Act :=
  match slotOfCode code with
  | none => [.emit (.log .unsupportedMode)]
  | some k =>
    retireActs s k ++
      (match driverOf handle with
        | some d => initActs s.params d
        | none => []) ++
      installActs s k (driverOf handle)

/-- SETDRV `mode, d` (R110, R111, R112). -/
def execSetdrv (code : BitVec 3) (handle : Handle) (s : State) : Host.Outcome State Fault Refusal :=
  perform (setdrvActs code handle s) s

/-! ### Teardown -/

/-- DESTROY (R117): unload the active driver, deinitialize the slots in order, close the socket. -/
def destroyActs (s : State) : List Act :=
  unloadActs s.params (s.ctx.lookup s.ctx.mode) ++
    [Slot.normal, Slot.multiplayer, Slot.joybus].flatMap (fun k => deinitActs s.params (s.ctx.slot k)) ++
    (match s.relay.sock with
      | some h => [.call (.sockClose h), .setSock none]
      | none => []) ++
    [.setAlive false]

/-- DESTROY (R117). -/
def execDestroy (s : State) : Host.Outcome State Fault Refusal := perform (destroyActs s) s

end Sys2Proof.Machine
end

