-- ==== Sys2Proof/Machine/RegisterGateway.lean ====
section
/-! DEFINITION. The Register Gateway's generic register write, WOTHER (41_register_gateway.md R140). -/

namespace Sys2Proof.Machine

open Sys2Proof

/-- WOTHER (R140): the driver that claims the write answers its value; otherwise it is returned unchanged. -/
def wotherActs (off value : Word) (s : State) : List Act :=
  match claimant s.params s.ctx s.ctx.mode with
  | some d => forwardActs d (.other off) value
  | none => [.setOut value]

/-- WOTHER `off, value` (R140). -/
def execWother (off value : Word) (s : State) : Host.Outcome State Fault Refusal := perform (wotherActs off value s) s

end Sys2Proof.Machine
end

