-- ==== Sys2Proof/Machine/RelayCommands.lean ====
section
/-! DEFINITION. What the relay commands do when a frame's terminator dispatches them (43_relay_commands.md R190 to R197). -/

namespace Sys2Proof.Machine

open Sys2Proof

/-- "≥7 buffered bytes": `cursor >= 7` (R191, R76). -/
def enoughBytes (r : RelayState) : Bool := decide (7 ≤ r.cursor)

/-- Send (R192): with seven bytes and a socket, take crc and length, write the header, and enter Send. -/
def cmdSendActs (s : State) : List Act :=
  if enoughBytes s.relay && s.relay.sock.isSome then
    [.setCrc (field32 s.relay.buf), .setLength (field16 s.relay.buf), .call (.sockSend (sendHeader s.relay.buf)),
      .setTmode .send, .setOutCount 0]
  else []

/-- Recv (R193): with a socket, enter Recv. -/
def cmdRecvActs (s : State) : List Act :=
  if s.relay.sock.isSome then [.setTmode .recv, .setInCount 0] else []

/-- Duplex (R194): unimplemented, nothing whatever its precondition. -/
def cmdDuplexActs : List Act := []

/-- Connect (R195): with seven bytes and no socket, store the parsed target and connect to the fixed one; Estab and at
once Idle. -/
def cmdConnectActs (s : State) : List Act :=
  if enoughBytes s.relay && s.relay.sock.isNone then
    [.setPendAddr (field32 s.relay.buf), .setPendPort (field16 s.relay.buf),
      .call (.sockConnect s.params.connectAddr s.params.connectPort), .setTmode .estab, .setTmode .idle]
  else []

/-- Disconnect (R196): close the socket if there is one. -/
def cmdDisconnectActs (s : State) : List Act :=
  match s.relay.sock with
  | some h => [.call (.sockClose h), .setSock none]
  | none => []

/-- DNS lookup (R197): unimplemented. -/
def cmdDnsActs : List Act := []

/-- The command's own lines. -/
def commandActs (c : Command) (s : State) : List Act :=
  match c with
  | .send => cmdSendActs s
  | .recv => cmdRecvActs s
  | .duplex => cmdDuplexActs
  | .connect => cmdConnectActs s
  | .disconnect => cmdDisconnectActs s
  | .dns => cmdDnsActs

/-- `dispatch()` (R190): Idle first, then the command of `buf[0]`. No reachable state holds another byte there (R43(f));
for one that does, only the frame ends (log 16). -/
def dispatchActs (s : State) : List Act :=
  .setTmode .idle ::
    match commandOf (bufByte s.relay.buf 0) with
    | some c => commandActs c s
    | none => []

end Sys2Proof.Machine
end

