-- ==== Sys2Proof/Machine/RelayFramer.lean ====
section
/-! DEFINITION. What each row of the data register's tables does, and the two tables as functions: the command framer
(42_relay_framer.md R160 to R168) and the transfer modes (44_relay_transfer.md R220 to R227). -/

namespace Sys2Proof.Machine

open Sys2Proof

/-! ### Framer rows -/

/-- START (R160). -/
def startActs : List Act := [.setBuf [], .setTmode .parse]

/-- IDLE_IGN (R161). -/
def idleIgnActs : List Act := []

/-- CANCEL (R164). -/
def cancelActs : List Act := [.setTmode .idle]

/-- CMD_* (R162): the code becomes `buf[0]`, `cursor` 1. -/
def codeActs (code : Byte) : List Act := [.setBuf [code]]

/-- CODE_DROP (R165). -/
def codeDropActs : List Act := []

/-- TERM (R166). -/
def termActs (s : State) : List Act := dispatchActs s

/-- APPEND (R163). -/
def appendActs (b : Byte) (s : State) : List Act := [.setBuf (s.relay.buf ++ [b])]

/-- OVERFLOW (R167). -/
def overflowActs : List Act := [.setBuf [], .setTmode .idle]

/-! ### Transfer rows -/

/-- Both counters have reached their targets (R226, R227, D11). -/
def duplexDone (inCount length outCount outLength : Word) : Bool := decide (length ≤ inCount) && decide (outLength ≤ outCount)

/-- PAYLOAD_OUT, `sendByte(b)` (R222). -/
def payloadOutActs (b : Byte) (s : State) : List Act :=
  [.call (.sockSend [b]), .setOutCount (s.relay.outCount + 1)] ++
    if s.relay.length ≤ s.relay.outCount + 1 then [.setTmode .idle] else []

/-- DUPLEX_OUT, `duplexWrite(b)` (R226). -/
def duplexOutActs (b : Byte) (s : State) : List Act :=
  [.call (.sockSend [b]), .setOutCount (s.relay.outCount + 1)] ++
    if duplexDone s.relay.inCount s.relay.length (s.relay.outCount + 1) s.relay.outLength then [.setTmode .idle] else []

/-- XFER_IGN (R223). -/
def xferIgnActs : List Act := []

/-- READ_NODATA (R221). -/
def nodataActs (s : State) : List Act := [.setOut s.params.noData]

/-- PAYLOAD_IN, `recvByte()` (R224); the byte is returned by the answer to the call. -/
def payloadInActs (s : State) : List Act :=
  [.call .sockRecv, .setInCount (s.relay.inCount + 1)] ++
    if s.relay.length ≤ s.relay.inCount + 1 then [.setTmode .idle] else []

/-- DUPLEX_IN, `duplexRead()` (R227). -/
def duplexInActs (s : State) : List Act :=
  [.call .sockRecv, .setInCount (s.relay.inCount + 1)] ++
    if duplexDone (s.relay.inCount + 1) s.relay.length s.relay.outCount s.relay.outLength then [.setTmode .idle] else []

/-- READ_ESTAB (R225): ESTAB_READ is 0x0000 (R7). -/
def estabActs : List Act := [.setOut 0x0000]

/-! ### The tables -/

/-- What a row of the write table does with the byte written. -/
def writeRowActs (row : WriteRow) (b : Byte) (s : State) : List Act :=
  match row with
  | .start => startActs
  | .idleIgn => idleIgnActs
  | .cancel00 => cancelActs
  | .cancel01 => cancelActs
  | .cancelFE => cancelActs
  | .cancelFF => cancelActs
  | .cmdSend => codeActs 0x02
  | .cmdRecv => codeActs 0x03
  | .cmdDuplex => codeActs 0x04
  | .cmdConnect => codeActs 0x05
  | .cmdDisconnect => codeActs 0x06
  | .cmdDns => codeActs 0x07
  | .codeDrop => codeDropActs
  | .term => termActs s
  | .append => appendActs b s
  | .overflow => overflowActs
  | .payloadOut => payloadOutActs b s
  | .duplexOut => duplexOutActs b s
  | .xferIgn => xferIgnActs

/-- What a row of the read table does. -/
def readRowActs (row : ReadRow) (s : State) : List Act :=
  match row with
  | .nodata => nodataActs s
  | .payloadIn => payloadInActs s
  | .duplexIn => duplexInActs s
  | .estab => estabActs

/-- The row a DATA write of `b` takes in the state (R74). -/
def selectWrite (s : State) (b : Byte) : WriteRow := writeRow s.relay.tmode s.relay.cursor b

/-- The row a DATA read takes in the state (R75). -/
def selectRead (s : State) : ReadRow := readRow s.relay.tmode

/-- A DATA write of `b` (R220). -/
def dataWriteActs (b : Byte) (s : State) : List Act := writeRowActs (selectWrite s b) b s

/-- A DATA read (R221). -/
def dataReadActs (s : State) : List Act := readRowActs (selectRead s) s

end Sys2Proof.Machine
end

