-- ==== Sys2Proof/Machine/RelayTransfer.lean ====
section
/-! DEFINITION. The meanings of the data register's instructions: the two requests WDATA and RDATA (44_relay_transfer.md R220,
R221), the rows of their tables (30_encoding.md R74, R75), and whole frames (R76, R84).

A row is the request with its byte, in the transfer mode and cursor that select it. Where the state selects the row, its
meaning is the row's own pseudocode; in any other state the same request word takes another row, and the meaning is that
row's (log 14). -/

namespace Sys2Proof.Machine

open Sys2Proof

/-- WDATA `value` (R220). -/
def execWdata (value : Word) (s : State) : Host.Outcome State Fault Refusal := perform (dataWriteActs (lowByte value) s) s

/-- RDATA (R221). -/
def execRdata (s : State) : Host.Outcome State Fault Refusal := perform (dataReadActs s) s

/-- A DATA write of `b`: by `acts` if the state selects `row`, otherwise as the row it does select. -/
def performWriteRow (row : WriteRow) (b : Byte) (acts : List Act) (s : State) : Host.Outcome State Fault Refusal :=
  perform (if selectWrite s b = row then acts else dataWriteActs b s) s

/-- A DATA read: by `acts` if the state selects `row`, otherwise as the row it does select. -/
def performReadRow (row : ReadRow) (acts : List Act) (s : State) : Host.Outcome State Fault Refusal :=
  perform (if selectRead s = row then acts else dataReadActs s) s

/-! ### Framer rows -/

/-- WDATA.START (R160). -/
def execWdataStart (s : State) : Host.Outcome State Fault Refusal := performWriteRow .start frameStart startActs s

/-- WDATA.IDLE_IGN (R161). -/
def execWdataIdleIgn (b : Byte) (s : State) : Host.Outcome State Fault Refusal := performWriteRow .idleIgn b idleIgnActs s

/-- WDATA.CANCEL_00 (R164). -/
def execWdataCancel00 (s : State) : Host.Outcome State Fault Refusal := performWriteRow .cancel00 0x00 cancelActs s

/-- WDATA.CANCEL_01 (R164). -/
def execWdataCancel01 (s : State) : Host.Outcome State Fault Refusal := performWriteRow .cancel01 0x01 cancelActs s

/-- WDATA.CANCEL_FE (R164). -/
def execWdataCancelFE (s : State) : Host.Outcome State Fault Refusal := performWriteRow .cancelFE 0xFE cancelActs s

/-- WDATA.CANCEL_FF (R164). -/
def execWdataCancelFF (s : State) : Host.Outcome State Fault Refusal := performWriteRow .cancelFF 0xFF cancelActs s

/-- WDATA.CMD_SEND (R162). -/
def execWdataCmdSend (s : State) : Host.Outcome State Fault Refusal := performWriteRow .cmdSend 0x02 (codeActs 0x02) s

/-- WDATA.CMD_RECV (R162). -/
def execWdataCmdRecv (s : State) : Host.Outcome State Fault Refusal := performWriteRow .cmdRecv 0x03 (codeActs 0x03) s

/-- WDATA.CMD_DUPLEX (R162). -/
def execWdataCmdDuplex (s : State) : Host.Outcome State Fault Refusal := performWriteRow .cmdDuplex 0x04 (codeActs 0x04) s

/-- WDATA.CMD_CONNECT (R162). -/
def execWdataCmdConnect (s : State) : Host.Outcome State Fault Refusal :=
  performWriteRow .cmdConnect 0x05 (codeActs 0x05) s

/-- WDATA.CMD_DISCONNECT (R162). -/
def execWdataCmdDisconnect (s : State) : Host.Outcome State Fault Refusal :=
  performWriteRow .cmdDisconnect 0x06 (codeActs 0x06) s

/-- WDATA.CMD_DNS (R162). -/
def execWdataCmdDns (s : State) : Host.Outcome State Fault Refusal := performWriteRow .cmdDns 0x07 (codeActs 0x07) s

/-- WDATA.CODE_DROP (R165). -/
def execWdataCodeDrop (b : Byte) (s : State) : Host.Outcome State Fault Refusal :=
  performWriteRow .codeDrop b codeDropActs s

/-- WDATA.TERM (R166). -/
def execWdataTerm (s : State) : Host.Outcome State Fault Refusal := performWriteRow .term frameTerm (termActs s) s

/-- WDATA.APPEND (R163). -/
def execWdataAppend (b : Byte) (s : State) : Host.Outcome State Fault Refusal :=
  performWriteRow .append b (appendActs b s) s

/-- WDATA.OVERFLOW (R167). -/
def execWdataOverflow (b : Byte) (s : State) : Host.Outcome State Fault Refusal :=
  performWriteRow .overflow b overflowActs s

/-! ### Transfer rows -/

/-- WDATA.PAYLOAD_OUT (R222). -/
def execWdataPayloadOut (b : Byte) (s : State) : Host.Outcome State Fault Refusal :=
  performWriteRow .payloadOut b (payloadOutActs b s) s

/-- WDATA.DUPLEX_OUT (R226). -/
def execWdataDuplexOut (b : Byte) (s : State) : Host.Outcome State Fault Refusal :=
  performWriteRow .duplexOut b (duplexOutActs b s) s

/-- WDATA.XFER_IGN (R223). -/
def execWdataXferIgn (b : Byte) (s : State) : Host.Outcome State Fault Refusal := performWriteRow .xferIgn b xferIgnActs s

/-- RDATA.READ_NODATA (R221). -/
def execRdataReadNodata (s : State) : Host.Outcome State Fault Refusal := performReadRow .nodata (nodataActs s) s

/-- RDATA.PAYLOAD_IN (R224). -/
def execRdataPayloadIn (s : State) : Host.Outcome State Fault Refusal := performReadRow .payloadIn (payloadInActs s) s

/-- RDATA.DUPLEX_IN (R227). -/
def execRdataDuplexIn (s : State) : Host.Outcome State Fault Refusal := performReadRow .duplexIn (duplexInActs s) s

/-- RDATA.READ_ESTAB (R225). -/
def execRdataReadEstab (s : State) : Host.Outcome State Fault Refusal := performReadRow .estab estabActs s

/-! ### Frames -/

/-- DATA writes one after another, as a frame expands to them (R84). If one is held, the bytes after it are requests that
wait at the port (R41, log 15). -/
def writeBytes (bytes : List Byte) (s : State) : Host.Outcome State Fault Refusal :=
  match bytes with
  | [] => .next s
  | b :: rest =>
    match perform (dataWriteActs b s) s with
    | .next t => if t.pending = .idle then writeBytes rest t else .next (t.withPort (rest.map dataWord ++ t.port))
    | .fault f => .fault f
    | .refused r => .refused r

/-- CMD.SEND (R192): its frame. -/
def execCmdSend (payload : List Byte) (s : State) : Host.Outcome State Fault Refusal :=
  writeBytes (frameBytes .send payload) s

/-- CMD.RECV (R193): its frame. -/
def execCmdRecv (payload : List Byte) (s : State) : Host.Outcome State Fault Refusal :=
  writeBytes (frameBytes .recv payload) s

/-- CMD.DUPLEX (R194): its frame. -/
def execCmdDuplex (payload : List Byte) (s : State) : Host.Outcome State Fault Refusal :=
  writeBytes (frameBytes .duplex payload) s

/-- CMD.CONNECT (R195): its frame. -/
def execCmdConnect (payload : List Byte) (s : State) : Host.Outcome State Fault Refusal :=
  writeBytes (frameBytes .connect payload) s

/-- CMD.DISCONNECT (R196): its frame. -/
def execCmdDisconnect (payload : List Byte) (s : State) : Host.Outcome State Fault Refusal :=
  writeBytes (frameBytes .disconnect payload) s

/-- CMD.DNS (R197): its frame. -/
def execCmdDns (payload : List Byte) (s : State) : Host.Outcome State Fault Refusal :=
  writeBytes (frameBytes .dns payload) s

end Sys2Proof.Machine
end

