-- ==== Sys2Proof/Machine/Reserved.lean ====
section
/-! DEFINITION. The reserved request kinds, which the spec refuses (30_encoding.md R71; 60_exceptions.md R252): the block gives
the request no meaning. -/

namespace Sys2Proof.Machine

open Sys2Proof

/-- RESERVED_OP_0: "reserved and are refused" (R71). -/
def execReservedOp0 (_s : State) : Host.Outcome State Fault Refusal := .refused (.reservedOp 0x0)

/-- RESERVED_OP_6: "reserved and are refused" (R71). -/
def execReservedOp6 (_s : State) : Host.Outcome State Fault Refusal := .refused (.reservedOp 0x6)

/-- RESERVED_OP_7: "reserved and are refused" (R71). -/
def execReservedOp7 (_s : State) : Host.Outcome State Fault Refusal := .refused (.reservedOp 0x7)

/-- RESERVED_OP_B: "reserved and are refused" (R71). -/
def execReservedOpB (_s : State) : Host.Outcome State Fault Refusal := .refused (.reservedOp 0xB)

/-- RESERVED_OP_C: "reserved and are refused" (R71). -/
def execReservedOpC (_s : State) : Host.Outcome State Fault Refusal := .refused (.reservedOp 0xC)

/-- RESERVED_OP_D: "reserved and are refused" (R71). -/
def execReservedOpD (_s : State) : Host.Outcome State Fault Refusal := .refused (.reservedOp 0xD)

/-- RESERVED_OP_E: "reserved and are refused" (R71). -/
def execReservedOpE (_s : State) : Host.Outcome State Fault Refusal := .refused (.reservedOp 0xE)

/-- RESERVED_OP_F: "reserved and are refused" (R71). -/
def execReservedOpF (_s : State) : Host.Outcome State Fault Refusal := .refused (.reservedOp 0xF)

end Sys2Proof.Machine
end

