-- ==== Sys2Proof/Machine/Dispatch.lean ====
section
/-! DEFINITION. The meaning of every instruction, one arm for each row of spec/opcode_table.json. -/

namespace Sys2Proof.Machine

open Sys2Proof

def exec (i : Instr) (s : State) : Host.Outcome State Fault Refusal :=
  match i with
  | .wrcnt value => Sys2Proof.Machine.execWrcnt value s
  | .wsiocnt value => Sys2Proof.Machine.execWsiocnt value s
  | .wdata value => Sys2Proof.Machine.execWdata value s
  | .rdata => Sys2Proof.Machine.execRdata s
  | .wother off value => Sys2Proof.Machine.execWother off value s
  | .reset => Sys2Proof.Machine.execReset s
  | .setdrv code handle => Sys2Proof.Machine.execSetdrv code handle s
  | .destroy => Sys2Proof.Machine.execDestroy s
  | .reservedOp0 => Sys2Proof.Machine.execReservedOp0 s
  | .reservedOp6 => Sys2Proof.Machine.execReservedOp6 s
  | .reservedOp7 => Sys2Proof.Machine.execReservedOp7 s
  | .reservedOpB => Sys2Proof.Machine.execReservedOpB s
  | .reservedOpC => Sys2Proof.Machine.execReservedOpC s
  | .reservedOpD => Sys2Proof.Machine.execReservedOpD s
  | .reservedOpE => Sys2Proof.Machine.execReservedOpE s
  | .reservedOpF => Sys2Proof.Machine.execReservedOpF s
  | .wdataStart => Sys2Proof.Machine.execWdataStart s
  | .wdataIdleIgn b => Sys2Proof.Machine.execWdataIdleIgn b s
  | .wdataCancel00 => Sys2Proof.Machine.execWdataCancel00 s
  | .wdataCancel01 => Sys2Proof.Machine.execWdataCancel01 s
  | .wdataCancelFE => Sys2Proof.Machine.execWdataCancelFE s
  | .wdataCancelFF => Sys2Proof.Machine.execWdataCancelFF s
  | .wdataCmdSend => Sys2Proof.Machine.execWdataCmdSend s
  | .wdataCmdRecv => Sys2Proof.Machine.execWdataCmdRecv s
  | .wdataCmdDuplex => Sys2Proof.Machine.execWdataCmdDuplex s
  | .wdataCmdConnect => Sys2Proof.Machine.execWdataCmdConnect s
  | .wdataCmdDisconnect => Sys2Proof.Machine.execWdataCmdDisconnect s
  | .wdataCmdDns => Sys2Proof.Machine.execWdataCmdDns s
  | .wdataCodeDrop b => Sys2Proof.Machine.execWdataCodeDrop b s
  | .wdataTerm => Sys2Proof.Machine.execWdataTerm s
  | .wdataAppend b => Sys2Proof.Machine.execWdataAppend b s
  | .wdataOverflow b => Sys2Proof.Machine.execWdataOverflow b s
  | .wdataPayloadOut b => Sys2Proof.Machine.execWdataPayloadOut b s
  | .wdataDuplexOut b => Sys2Proof.Machine.execWdataDuplexOut b s
  | .wdataXferIgn b => Sys2Proof.Machine.execWdataXferIgn b s
  | .rdataReadNodata => Sys2Proof.Machine.execRdataReadNodata s
  | .rdataPayloadIn => Sys2Proof.Machine.execRdataPayloadIn s
  | .rdataDuplexIn => Sys2Proof.Machine.execRdataDuplexIn s
  | .rdataReadEstab => Sys2Proof.Machine.execRdataReadEstab s
  | .cmdSend payload => Sys2Proof.Machine.execCmdSend payload s
  | .cmdRecv payload => Sys2Proof.Machine.execCmdRecv payload s
  | .cmdDuplex payload => Sys2Proof.Machine.execCmdDuplex payload s
  | .cmdConnect payload => Sys2Proof.Machine.execCmdConnect payload s
  | .cmdDisconnect payload => Sys2Proof.Machine.execCmdDisconnect payload s
  | .cmdDns payload => Sys2Proof.Machine.execCmdDns payload s

end Sys2Proof.Machine
end

