-- ==== Sys2Proof/Machine/Fetch.lean ====
section
/-! DEFINITION. Where a step gets its request: the request port (30_encoding.md; 60_exceptions.md R266). -/

namespace Sys2Proof.Machine

open Sys2Proof

/-- Takes the next request from the port, decoded, and leaves the rest there; none when nothing is presented. -/
def takeRequest (s : State) : Option (Instr × State) :=
  match s.port with
  | [] => none
  | w :: ws => some (decode w, { s with port := ws })

/-- Puts a request word first at the port of a block that waits for a request (log 18). -/
def presentWord (s : State) (w : Nat) : State :=
  { s with port := BitVec.ofNat 36 w :: s.port, pending := .idle }

end Sys2Proof.Machine
end

