-- ==== Sys2Proof/Machine/Step.lean ====
section
/-! DEFINITION. One step: the suspended request goes on if an answer has come; otherwise the next request at the port is
decoded and performed; with neither, nothing happens (20_memory.md R60, R63; 60_exceptions.md R266). -/

namespace Sys2Proof.Machine

open Sys2Proof

/-- One step of the block. -/
def step (s : State) : Host.Outcome State Fault Refusal :=
  match s.pending with
  | .held e r acts => resume e r acts s
  | .idle =>
    match takeRequest s with
    | some (i, t) => exec i t
    | none => .next s

/-- The request word `w` first at the port, so that the next step runs it (log 18). -/
def State.withFetchWord (s : State) (_nbits w : Nat) : State := presentWord s w

end Sys2Proof.Machine
end

