-- ==== Sys2Proof/Machine/Pseudo.lean ====
section
/-! DEFINITION. The pseudo-requests of 30_encoding.md R84, each the requests it expands to, in order. -/

namespace Sys2Proof.Machine

open Sys2Proof

/-- The four bytes of a 32-bit field, least significant first. -/
def bytes32 (v : Word32) : List Byte := [v.extractLsb' 0 8, v.extractLsb' 8 8, v.extractLsb' 16 8, v.extractLsb' 24 8]

/-- The two bytes of a 16-bit field, least significant first. -/
def bytes16 (v : Word) : List Byte := [v.extractLsb' 0 8, v.extractLsb' 8 8]

/-- `WBYTES b1, ..., bk`. -/
def wbytes (bytes : List Byte) : List Instr := bytes.map fun b => .wdata (zext16 b)

/-- `FRAME code, p1, ..., pn`; none if the payload holds 0xFE, which an assembler must reject, or is too long. -/
def frame (c : Command) (payload : List Byte) : Option (List Instr) :=
  if payloadFits payload then some (wbytes (frameBytes c payload)) else none

/-- The payload of `CSEND crc32, len16` and of `CCONNECT ip32, port16`. -/
def fieldPayload (v : Word32) (w : Word) : List Byte := bytes32 v ++ bytes16 w

/-- `CSEND crc32, len16`. -/
def csend (crc : Word32) (len : Word) : Option (List Instr) := frame .send (fieldPayload crc len)

/-- `CRECV`. -/
def crecv : Option (List Instr) := frame .recv []

/-- `CDUPLEX`. -/
def cduplex : Option (List Instr) := frame .duplex [0, 0, 0, 0, 0, 0]

/-- `CCONNECT ip32, port16`. -/
def cconnect (ip : Word32) (port : Word) : Option (List Instr) := frame .connect (fieldPayload ip port)

/-- `CDISC`. -/
def cdisc : Option (List Instr) := frame .disconnect []

/-- `CDNS`. -/
def cdns : Option (List Instr) := frame .dns []

/-- `CANCEL`. -/
def cancel : List Instr := [.wdata 0x00]

/-- `RDATA_N k`. -/
def rdataN (k : Nat) : List Instr := List.replicate k .rdata

end Sys2Proof.Machine
end

