-- ==== Sys2Proof/Safety.lean ====
section
/-! DEFINITION. The words the statements use: a block that accepts requests, answers that are there for its calls, the
events a request owes its agents, and the invariant of 10_state.md R43, between requests and across a hold. -/

namespace Sys2Proof.Machine

open Sys2Proof

/-! ### Requests and answers -/

/-- The block accepts a request: it is alive and waits on no call (R30, R41). -/
abbrev Ready (s : State) : Prop := s.ctx.alive = true ∧ s.pending = .idle

/-- The agents' next replies are the answers `xs`, and then `rest`. -/
abbrev Answered (s : State) (xs : List Answer) (rest : List Reply) : Prop := s.replies = xs.map Reply.answer ++ rest

/-- Every reply that is waiting is an answer: no agent issues a request of its own (R267). -/
abbrev OnlyAnswers (s : State) : Prop := ∀ x ∈ s.replies, ∃ a, x = Reply.answer a

/-- Changes the next state of an outcome; a refusal stays what it is. -/
def mapNext (f : State → State) : Host.Outcome State Fault Refusal → Host.Outcome State Fault Refusal
  | .next t => .next (f t)
  | .fault e => .fault e
  | .refused why => .refused why

/-- Instructions performed one after another, each complete before the next (R60); a hold or a refusal ends it. -/
def performAll : List Instr → State → Host.Outcome State Fault Refusal
  | [], s => .next s
  | i :: rest, s =>
    match exec i s with
    | .next t => if t.pending = .idle then performAll rest t else .next t
    | .fault e => .fault e
    | .refused why => .refused why

/-- `k` steps one after another, stopping at a refusal. -/
def steps : Nat → State → Host.Outcome State Fault Refusal
  | 0, s => .next s
  | k + 1, s =>
    match step s with
    | .next t => steps k t
    | .fault e => .fault e
    | .refused why => .refused why

/-! ### Relay states the statements name -/

/-- After a Send command whose precondition holds (R192). -/
def sendStarted (r : RelayState) : RelayState :=
  { r with
    tmode := .send
    crc := le32 (bufByte r.buf 1) (bufByte r.buf 2) (bufByte r.buf 3) (bufByte r.buf 4)
    length := le16 (bufByte r.buf 5) (bufByte r.buf 6)
    outCount := 0 }

/-- The header a Send command writes to the socket (R80). -/
def headerOf (r : RelayState) : List Byte :=
  [bufByte r.buf 2, bufByte r.buf 1, bufByte r.buf 6, bufByte r.buf 5, bufByte r.buf 4, bufByte r.buf 3]

/-- After a Connect command whose precondition holds and that leaves the socket `sock` (R195). -/
def connected (r : RelayState) (sock : Option SockHandle) : RelayState :=
  { r with
    tmode := .idle
    pendAddr := le32 (bufByte r.buf 1) (bufByte r.buf 2) (bufByte r.buf 3) (bufByte r.buf 4)
    pendPort := le16 (bufByte r.buf 5) (bufByte r.buf 6)
    sock := sock }

/-- After a byte the framer takes in without dispatching (R160 to R165, R167, R168). -/
def framerTook (r : RelayState) (b : Byte) : RelayState :=
  if r.tmode = .idle then
    if b = 0x89 then { r with tmode := .parse, buf := [] } else r
  else if r.cursor = 0 then
    if b = 0x00 ∨ b = 0x01 ∨ b = 0xFE ∨ b = 0xFF then { r with tmode := .idle }
    else if 0x02 ≤ b ∧ b ≤ 0x07 then { r with buf := [b] }
    else r
  else if r.cursor < 255 then { r with buf := r.buf ++ [b] }
  else { r with tmode := .idle, buf := [] }

/-! ### Events a request owes -/

/-- `Unload(d)` to a driver that is there and has the hook (R262). -/
def unloadEvents (p : Params) : Option Handle → List Event
  | none => []
  | some d => if (capsOf p d).unload then [.unload d] else []

/-- `Load(d)` to a driver that is there and has the hook. -/
def loadEvents (p : Params) : Option Handle → List Event
  | none => []
  | some d => if (capsOf p d).load then [.load d] else []

/-- `Deinit(d)` to a driver that is there and has the hook. -/
def deinitEvents (p : Params) : Option Handle → List Event
  | none => []
  | some d => if (capsOf p d).deinit then [.deinit d] else []

/-- `DrvWrite(d, reg, value)` to a driver that is there and has the hook. -/
def drvWriteEvents (p : Params) (reg : RegId) (value : Word) : Option Handle → List Event
  | none => []
  | some d => if (capsOf p d).writeRegister then [.drvWrite d reg value] else []

/-- The events of `rederive()` from `old` to `new` (R106). -/
def rederiveEvents (p : Params) (c : SioContext) (old new : LinkMode) : List Event :=
  if new = old then [] else unloadEvents p (c.lookup old) ++ loadEvents p (c.lookup new)

/-- The events that retire the old driver of a slot (R110). -/
def retireEvents (s : State) (k : Slot) : List Event :=
  (if slotOf s.ctx.mode = some k then unloadEvents s.params (s.ctx.slot k) else []) ++
    deinitEvents s.params (s.ctx.slot k)

/-- The SIOContext after `rederive()` (R106). -/
def rederived (c : SioContext) (new : LinkMode) : SioContext :=
  { c with mode := new, activeDriver := if new = c.mode then c.activeDriver else slotOf new }

/-- The event is the serial interrupt (R142). -/
def isIrq : Event → Bool
  | .raiseIrq _ _ => true
  | _ => false

/-- The bytes an event sends to the socket (R63). -/
def eventBytes : Event → List Byte
  | .sockSend bytes => bytes
  | _ => []

/-- How often the serial interrupt stands in a history. -/
def irqCount (hist : List Event) : Nat :=
  hist.countP isIrq

/-- The bytes a history has sent to the socket, in order (R63, R230). -/
def sentBytes (hist : List Event) : List Byte :=
  hist.flatMap eventBytes

/-- The handle is or was the block's socket: a socket goes only by being closed (R39, R196, R117). -/
def everHeld (s : State) (h : SockHandle) : Prop := s.relay.sock = some h ∨ Event.sockClose h ∈ s.hist

/-! ### The invariant -/

/-- What holds between any two requests (R43), with R107 beside `mode != Unset` and the count that keeps connect handles
fresh (R263). Clause (h) is about a
block that is alive: DESTROY closes the socket in any transfer mode. -/
structure Settled (s : State) : Prop where
  /-- (a) -/
  siocnt_masked : s.ctx.siocnt &&& ~~~siocntModeMask = 0
  /-- (b) -/
  rcnt_low_kept : s.ctx.rcnt &&& rcntKeepMask = s.params.rcntReset &&& rcntKeepMask
  /-- (c) -/
  mode_set : s.ctx.mode ≠ .unset
  /-- R107 -/
  mode_derived : s.ctx.mode = deriveMode s.params s.ctx.rcnt s.ctx.siocnt
  /-- (d) -/
  active_is_lookup : s.ctx.activeDriver = slotOf s.ctx.mode
  /-- (e) -/
  cursor_le : s.relay.cursor ≤ 255
  /-- (f) -/
  code_in_range : s.relay.tmode = .parse → 1 ≤ s.relay.cursor →
    2 ≤ (bufByte s.relay.buf 0).toNat ∧ (bufByte s.relay.buf 0).toNat ≤ 7
  /-- (g) -/
  tmode_reachable : s.relay.tmode ≠ .estab ∧ s.relay.tmode ≠ .sendRecv ∧ s.relay.tmode ≠ .reserved
  /-- (h) -/
  sock_open : s.ctx.alive = true → s.relay.tmode = .send ∨ s.relay.tmode = .recv → s.relay.sock ≠ none
  /-- what makes the next connect's handle fresh (R263, log 28) -/
  handles_counted : ∀ h, everHeld s h → h.serial < s.connects
  /-- (i), Send -/
  out_below : s.relay.tmode = .send → s.relay.outCount.toNat < max s.relay.length.toNat 1
  /-- (i), Recv -/
  in_below : s.relay.tmode = .recv → s.relay.inCount.toNat < max s.relay.length.toNat 1

/-- The invariant in every state: between requests it is `Settled`; while a request is held, whatever answers come, the
state in which the request ends is `Settled`. -/
def Inv (s : State) : Prop :=
  match s.pending with
  | .idle => Settled s
  | .held e r acts => ∀ (xs : List Answer) (t : State),
      resume e r acts (s.withReplies (xs.map Reply.answer)) = .next t → t.pending = .idle → Settled t

end Sys2Proof.Machine
end

