-- ==== Sys2Proof/Certificates/Slice0/Obligations.lean ====
section
/-! DEFINITION. The statements for the provers. `Ready s`: the block accepts a request; `Answered s xs rest`: the agents'
next replies are the answers `xs`, then `rest`. A statement of a result gives the whole next state, so that every field it
does not name is unchanged. Every statement holds for every value of the parameters (`s.params`). -/

open Sys2Proof Sys2Proof.Machine

/-! ### Encoding -/

/-- Words written out from the spec's own examples (30_encoding.md R83; 95_test_vectors.md 2.1) decode to the instructions
they stand for. -/
def Obligations.ExampleWordsDecode : Prop :=
  decode 0x100008000 = .wrcnt 0x8000 ∧ decode 0x200004081 = .wsiocnt 0x4081 ∧ decode 0x300000089 = .wdata 0x0089 ∧
  decode 0x400000000 = .rdata ∧ decode 0x501400007 = .wother 0x0140 0x0007 ∧ decode 0x800000000 = .reset ∧
  decode 0x900030002 = .setdrv 3 2 ∧ decode 0x9FFFB0001 = .setdrv 3 1 ∧ decode 0xA00000000 = .destroy ∧
  decode 0x600000000 = .reservedOp6 ∧ decode 0xF12345678 = .reservedOpF

/-- The three fields of a request word, and the request each value of `op` makes of any `aux` and `data`: the fields a kind
ignores are ignored (R70 to R72). -/
def Obligations.RequestFieldsDecode : Prop :=
  (∀ w : ReqWord, w = requestWord (opField w) (auxField w) (dataField w)) ∧
  ∀ aux data : Word,
    decode (requestWord 0x1 aux data) = .wrcnt data ∧ decode (requestWord 0x2 aux data) = .wsiocnt data ∧
    decode (requestWord 0x3 aux data) = .wdata data ∧ decode (requestWord 0x4 aux data) = .rdata ∧
    decode (requestWord 0x5 aux data) = .wother aux data ∧ decode (requestWord 0x8 aux data) = .reset ∧
    decode (requestWord 0x9 aux data) = .setdrv (aux.extractLsb' 0 3) data ∧ decode (requestWord 0xA aux data) = .destroy ∧
    decode (requestWord 0x0 aux data) = .reservedOp0 ∧ decode (requestWord 0x6 aux data) = .reservedOp6 ∧
    decode (requestWord 0x7 aux data) = .reservedOp7 ∧ decode (requestWord 0xB aux data) = .reservedOpB ∧
    decode (requestWord 0xC aux data) = .reservedOpC ∧ decode (requestWord 0xD aux data) = .reservedOpD ∧
    decode (requestWord 0xE aux data) = .reservedOpE ∧ decode (requestWord 0xF aux data) = .reservedOpF

/-- Decode and encode agree on every request, with every operand at every value. -/
def Obligations.RequestsDecodeFromTheirWords : Prop :=
  ∀ i : Instr, i.isRequest = true → ∃ w, encode i = [w] ∧ decode w = i

/-- Decode and encode agree on the rows of the data register's tables: the word of a well-formed row reads as that row in
every transfer mode and with every cursor in which the tables (R74, R75) list it. -/
def Obligations.RowsDecodeFromTheirWords : Prop :=
  ∀ (t : TMode) (cursor : Nat) (b : Byte) (row : WriteRow),
    (row.instr b).wellFormed = true →
    (match row with
      | .start => t = .idle
      | .idleIgn => t = .idle
      | .cancel00 | .cancel01 | .cancelFE | .cancelFF => t = .parse ∧ cursor = 0
      | .cmdSend | .cmdRecv | .cmdDuplex | .cmdConnect | .cmdDisconnect | .cmdDns => t = .parse ∧ cursor = 0
      | .codeDrop => t = .parse ∧ cursor = 0
      | .term => t = .parse ∧ 1 ≤ cursor
      | .append => t = .parse ∧ 1 ≤ cursor ∧ cursor ≤ 254
      | .overflow => t = .parse ∧ 255 ≤ cursor
      | .payloadOut => t = .send
      | .duplexOut => t = .sendRecv
      | .xferIgn => t = .recv ∨ t = .estab ∨ t = .reserved) →
    ∃ w, encode (row.instr b) = [w] ∧ decodeAt t cursor w = row.instr b

/-- Decode and encode agree on frames: the bytes of a command with a payload a frame can carry, whatever follows them, read
as that command with that payload, and leave what follows. -/
def Obligations.FramesDecodeFromTheirBytes : Prop :=
  ∀ (c : Command) (payload rest : List Byte), payloadFits payload = true →
    decodeFrame (frameBytes c payload ++ rest) = .ok (c.instr payload, rest)

/-- The framer takes a byte sequence just as the frame it decodes to: bytes that begin with 0x89, with any dropped bytes
before the code (R76), do from Idle what the frame does. -/
def Obligations.FramerAgreesWithFrameDecoding : Prop :=
  ∀ (bytes : List Byte) (i : Instr) (s : State), Ready s → s.relay.tmode = .idle →
    decodeFrame bytes = .ok (i, []) → writeBytes bytes s = exec i s

/-- A 32-bit and a 16-bit field, sent least significant byte first, come back from the command buffer (R79, R84). -/
def Obligations.FieldsReassemble : Prop :=
  ∀ (code : Byte) (v : Word32) (w : Word),
    field32 (code :: fieldPayload v w) = v ∧ field16 (code :: fieldPayload v w) = w

/-- The Send header is `buf[2], buf[1], buf[6], buf[5], buf[4], buf[3]`, which are these bytes of the two fields (R80). -/
def Obligations.SendHeaderOrder : Prop :=
  ∀ buf : List Byte,
    sendHeader buf = [bufByte buf 2, bufByte buf 1, bufByte buf 6, bufByte buf 5, bufByte buf 4, bufByte buf 3] ∧
    sendHeader buf = [(field32 buf).extractLsb' 8 8, (field32 buf).extractLsb' 0 8, (field16 buf).extractLsb' 8 8,
      (field16 buf).extractLsb' 0 8, (field32 buf).extractLsb' 24 8, (field32 buf).extractLsb' 16 8]

/-! ### Steps, holds and refusals -/

/-- Between requests a step decodes the request first at the port, takes it from there and performs it (that the requests to
come stand in a list is the model's choice, log 8). A word placed by `withFetchWord` is that request, performed with nothing
pending, whatever was pending before: that clause is the model's choice (log 18). -/
def Obligations.StepRunsTheDecodedRequest : Prop :=
  (∀ (s : State) (w : ReqWord) (ws : List ReqWord), s.pending = .idle → s.port = w :: ws →
    step s = exec (decode w) { s with port := ws }) ∧
  ∀ (s : State) (nbits : Nat) (w : ReqWord), step (s.withFetchWord nbits w.toNat) = exec (decode w) { s with pending := .idle }

/-- A call that is not answered holds the block: no step changes anything and every request is refused (R266, R267). With
no request presented and nothing pending, nothing happens either (the model's choice, log 8). -/
def Obligations.WaitingChangesNothing : Prop :=
  (∀ (s : State) (e : Event) (r : Bool) (acts : List Act), s.pending = .held e r acts → s.replies = [] →
    step s = .next s ∧ ∀ i, ∃ why, exec i s = .refused why) ∧
  ∀ s : State, s.pending = .idle → s.port = [] → step s = .next s

/-- No state is lost across a hold: a request that had to wait goes on, when more replies come, to exactly what it would
have done had they been there from the start (R41, R268). -/
def Obligations.HeldRequestLosesNothing : Prop :=
  ∀ (w : ReqWord) (s t : State) (xs : List Answer) (more : List Reply),
    s.replies = xs.map Reply.answer → exec (decode w) s = .next t → t.pending ≠ .idle →
    step { t with replies := more } = exec (decode w) { s with replies := s.replies ++ more }

/-- The reserved request kinds are refused in every state, whatever their other bits, and a request of any kind is refused
while `alive = 0` (R71). That a reserved kind is refused by its own name in a destroyed or held block too is the model's
order of refusals (its choice, log 23). -/
def Obligations.ReservedKindsRefused : Prop :=
  (∀ s : State,
    exec .reservedOp0 s = .refused (.reservedOp 0x0) ∧ exec .reservedOp6 s = .refused (.reservedOp 0x6) ∧
    exec .reservedOp7 s = .refused (.reservedOp 0x7) ∧ exec .reservedOpB s = .refused (.reservedOp 0xB) ∧
    exec .reservedOpC s = .refused (.reservedOp 0xC) ∧ exec .reservedOpD s = .refused (.reservedOp 0xD) ∧
    exec .reservedOpE s = .refused (.reservedOp 0xE) ∧ exec .reservedOpF s = .refused (.reservedOp 0xF) ∧
    ∀ (op : BitVec 4) (aux data : Word), op = 0x0 ∨ op = 0x6 ∨ op = 0x7 ∨ 0xB ≤ op →
      exec (decode (requestWord op aux data)) s = .refused (.reservedOp op)) ∧
  ∀ (i : Instr) (s : State), s.ctx.alive = false → ∃ why, exec i s = .refused why

/-- A request is refused when its kind is reserved, when the block has been destroyed, and when another request waits; a
ready block whose agents only answer refuses no other request: it completes or is held (R250, R252, R267). -/
def Obligations.RefusedExactlyWhenMeaningless : Prop :=
  (∀ (i : Instr) (s : State), i.isReserved = true ∨ s.ctx.alive = false ∨ s.pending ≠ .idle →
    ∃ why, exec i s = .refused why) ∧
  ∀ (i : Instr) (s : State), Ready s → OnlyAnswers s → i.isReserved = false → ∃ t, exec i s = .next t

/-- A request that the called agent issues while the block waits on it is refused (R267), whether it comes when the call is
made or during the hold. -/
def Obligations.ReentrantRequestRefused : Prop :=
  (∀ (s : State) (e : Event) (r : Bool) (acts : List Act) (w : ReqWord) (rest : List Reply),
    s.pending = .held e r acts → s.replies = .request w :: rest → step s = .refused .reentrant) ∧
  ∀ (s : State) (value : Word) (w : ReqWord) (rest : List Reply), Ready s → s.relay.tmode = .send →
    s.replies = .request w :: rest → exec (.wdata value) s = .refused .reentrant

/-! ### What every step keeps -/

/-- The invariant of R43, with what makes the handles of connects fresh (R263, log 28), carried across holds, is kept by every
step. -/
def Obligations.InvariantKeptByEveryStep : Prop :=
  ∀ s t : State, Inv s → step s = .next t → Inv t

/-- The invariant holds at reset (under the default parameters: log 2). -/
def Obligations.InvariantAtReset : Prop := Inv State.reset

/-- Every step keeps the parameters and the out length (R37), only appends to the history (R40) and never lowers the count
that makes connect handles fresh (the model's own field, log 28); so does every instruction. -/
def Obligations.StepOnlyAppendsHistory : Prop :=
  (∀ s t : State, step s = .next t →
    t.params = s.params ∧ t.relay.outLength = s.relay.outLength ∧ s.connects ≤ t.connects ∧
      ∃ es, t.hist = s.hist ++ es) ∧
  ∀ (i : Instr) (s t : State), exec i s = .next t →
    t.params = s.params ∧ t.relay.outLength = s.relay.outLength ∧ s.connects ≤ t.connects ∧
      ∃ es, t.hist = s.hist ++ es

/-- Requests to the control registers and to OTHER registers, and RESET and SETDRV, neither read nor write the relay: with
another relay state they do the same and leave that one (R65, R282). -/
def Obligations.ControlRequestsIgnoreRelay : Prop :=
  ∀ (s : State) (r : RelayState) (value off : Word) (code : BitVec 3) (handle : Handle),
    exec (.wrcnt value) (s.withRelay r) = mapNext (·.withRelay r) (exec (.wrcnt value) s) ∧
    exec (.wsiocnt value) (s.withRelay r) = mapNext (·.withRelay r) (exec (.wsiocnt value) s) ∧
    exec (.wother off value) (s.withRelay r) = mapNext (·.withRelay r) (exec (.wother off value) s) ∧
    exec .reset (s.withRelay r) = mapNext (·.withRelay r) (exec .reset s) ∧
    exec (.setdrv code handle) (s.withRelay r) = mapNext (·.withRelay r) (exec (.setdrv code handle) s)

/-- Requests to the data register neither read nor write the SIOContext but for `alive`: with another context that is as
much alive they do the same and leave that one (R65, R220). -/
def Obligations.DataRequestsIgnoreContext : Prop :=
  ∀ (s : State) (c : SioContext) (value : Word), c.alive = s.ctx.alive →
    exec (.wdata value) (s.withCtx c) = mapNext (·.withCtx c) (exec (.wdata value) s) ∧
    exec .rdata (s.withCtx c) = mapNext (·.withCtx c) (exec .rdata s)

/-- Nothing leaves a transfer phase early: with bytes still to move, every request and every row leaves Send in Send and
Recv in Recv (R294). -/
def Obligations.TransferPhaseNotLeftEarly : Prop :=
  ∀ (i : Instr) (s t : State), i.isFrame = false → exec i s = .next t →
    (s.relay.tmode = .send → s.relay.outCount.toNat + 1 < s.relay.length.toNat → t.relay.tmode = .send) ∧
    (s.relay.tmode = .recv → s.relay.inCount.toNat + 1 < s.relay.length.toNat → t.relay.tmode = .recv)

/-- Parse is entered only by START: a request or row that finds the relay outside Parse and leaves it there is a DATA write
of 0x89 in Idle (R160). -/
def Obligations.ParseEnteredOnlyByStart : Prop :=
  ∀ (i : Instr) (s t : State), i.isFrame = false → exec i s = .next t →
    s.relay.tmode ≠ .parse → t.relay.tmode = .parse → s.relay.tmode = .idle ∧
      ∃ w, encode i = [w] ∧ opField w = 0x3 ∧ lowByte (dataField w) = 0x89

/-- The serial interrupt is raised at most once by an instruction, and only by a SIOCNT write (or the quirk of one) in a
Normal mode that no driver claims, with the start, internal-enable and interrupt-enable bits set (R142). -/
def Obligations.SerialInterruptOnlyFromQuirk : Prop :=
  ∀ (i : Instr) (s t : State), paramsOk s.params = true → exec i s = .next t →
    irqCount t.hist = irqCount s.hist ∨
    (irqCount t.hist = irqCount s.hist + 1 ∧ ∃ value, i = .wsiocnt value ∧
      (t.ctx.mode = .normal8 ∨ t.ctx.mode = .normal32) ∧
      (∀ d, t.ctx.lookup t.ctx.mode = some d → (capsOf s.params d).writeRegister = false) ∧
      value &&& s.params.qStart ≠ 0 ∧ value &&& s.params.qIntClk ≠ 0 ∧ value &&& s.params.qIrqEn ≠ 0)

/-! ### Mode Controller -/

/-- WRCNT: the merge, the re-derived mode, the hooks of a change, and the raw value forwarded to the driver of the new mode
if it has the hook (R100, R106). -/
def Obligations.WrcntResult : Prop :=
  ∀ (value : Word) (s : State) (xs : List Answer) (rest : List Reply), Ready s → Answered s xs rest →
    let rcnt := (s.ctx.rcnt &&& 0x000F) ||| (value &&& 0xFFF0)
    let mode := modeMap s.params (selector rcnt s.ctx.siocnt)
    let events := rederiveEvents s.params s.ctx s.ctx.mode mode ++
      drvWriteEvents s.params .rcnt value (s.ctx.lookup mode)
    xs.length = events.length →
    exec (.wrcnt value) s = .next { s with
      ctx := rederived { s.ctx with rcnt := rcnt } mode
      hist := s.hist ++ events
      out := none
      replies := rest }

/-- WSIOCNT: when the mode-select bits change they are stored and the mode re-derived; then a driver that claims the write
returns its answer, and otherwise the quirk returns its value and may raise the interrupt (R101, R106). -/
def Obligations.WsiocntResult : Prop :=
  ∀ (value : Word) (s : State) (xs : List Answer) (rest : List Reply), Ready s →
    let changed : Bool := (value ^^^ s.ctx.siocnt) &&& 0x3000 != 0
    let mode := if changed then modeMap s.params (selector s.ctx.rcnt (value &&& 0x3000)) else s.ctx.mode
    let ctx := if changed then rederived { s.ctx with siocnt := value &&& 0x3000 } mode else s.ctx
    let hooks := if changed then rederiveEvents s.params s.ctx s.ctx.mode mode else []
    xs.length = hooks.length →
    (∀ (d : Handle) (a : Answer), s.ctx.lookup mode = some d → (capsOf s.params d).writeRegister = true →
      Answered s (xs ++ [a]) rest →
      exec (.wsiocnt value) s = .next { s with
        ctx := ctx
        hist := s.hist ++ hooks ++ [.drvWrite d .siocnt value]
        out := some a.value
        replies := rest }) ∧
    ((∀ d, s.ctx.lookup mode = some d → (capsOf s.params d).writeRegister = false) → Answered s xs rest →
      exec (.wsiocnt value) s = .next { s with
        ctx := ctx
        hist := s.hist ++ hooks ++
          if (quirk s.params mode value).2 then [.raiseIrq s.params.emulator s.params.irqSio] else []
        out := some (quirk s.params mode value).1
        replies := rest })

/-- The quirk, mode by mode (R141, R143): in the Normal modes the ready bit is set, a start with the internal enable has
its start bit cleared and raises exactly if the interrupt enable is set, and every other bit is as written; Multiplayer is
masked and forced; Joybus and Unset pass the value through. -/
def Obligations.QuirkBits : Prop :=
  ∀ (p : Params) (m : LinkMode) (v : Word), paramsOk p = true →
    (m = .normal8 ∨ m = .normal32 →
      (quirk p m v).1 &&& p.qReady = p.qReady ∧
      (quirk p m v).1 &&& ~~~(p.qReady ||| p.qStart) = v &&& ~~~(p.qReady ||| p.qStart) ∧
      (v &&& p.qStart ≠ 0 ∧ v &&& p.qIntClk ≠ 0 → (quirk p m v).1 &&& p.qStart = 0) ∧
      (v &&& p.qStart = 0 ∨ v &&& p.qIntClk = 0 → (quirk p m v).1 &&& p.qStart = v &&& p.qStart) ∧
      ((quirk p m v).2 = true ↔ v &&& p.qStart ≠ 0 ∧ v &&& p.qIntClk ≠ 0 ∧ v &&& p.qIrqEn ≠ 0)) ∧
    (m = .multiplayer → quirk p m v = ((v &&& p.qMultiMask) ||| p.qMultiForce, false)) ∧
    (m = .joybus ∨ m = .unset → quirk p m v = (v, false))

/-- MODE_MAP as the source settles it (R103): below 8 a Normal mode that depends on the low two bits alone, otherwise
Multiplayer or Joybus, never Unset; and every map within these constraints is the map of some parameters. -/
def Obligations.ModeMapsAreThoseAllowed : Prop :=
  let allowed := fun f : BitVec 4 → LinkMode =>
    (∀ s, s < 8 → f s = .normal8 ∨ f s = .normal32) ∧
    (∀ s s', s < 8 → s' < 8 → s.extractLsb' 0 2 = s'.extractLsb' 0 2 → f s = f s') ∧
    (∀ s, 8 ≤ s → f s = .multiplayer ∨ f s = .joybus)
  (∀ p : Params, allowed (modeMap p) ∧ ∀ s, modeMap p s ≠ .unset) ∧
  ∀ (f : BitVec 4 → LinkMode) (p : Params), allowed f →
    ∃ low high, ∀ s, modeMap { p with normal32 := low, joybus := high } s = f s

/-- The link mode is a pure function of the control registers' final bits (R107): after any request that completes it is
MODE_MAP of the selector of the two registers, and two sequences of control-register writes that complete with the same top
bits of `rcnt` and mode-select bits of `siocnt` leave the same mode. -/
def Obligations.ModeIsPureFunctionOfRegisters : Prop :=
  (∀ (i : Instr) (s t : State), s.pending = .idle → s.ctx.mode = deriveMode s.params s.ctx.rcnt s.ctx.siocnt →
    exec i s = .next t → t.pending = .idle → t.ctx.mode = modeMap t.params (selector t.ctx.rcnt t.ctx.siocnt)) ∧
  ∀ (s t t' : State) (writes writes' : List Instr), Ready s →
    s.ctx.mode = deriveMode s.params s.ctx.rcnt s.ctx.siocnt →
    (∀ i ∈ writes ++ writes', ∃ v, i = .wrcnt v ∨ i = .wsiocnt v) →
    performAll writes s = .next t → performAll writes' s = .next t' → t.pending = .idle → t'.pending = .idle →
    t.ctx.rcnt.extractLsb' 14 2 = t'.ctx.rcnt.extractLsb' 14 2 →
    t.ctx.siocnt.extractLsb' 12 2 = t'.ctx.siocnt.extractLsb' 12 2 → t.ctx.mode = t'.ctx.mode

/-- A change between Normal8 and Normal32 by a SIOCNT write unloads and then loads the Normal slot's driver, each if it has
the hook, and leaves the slot active (R108). -/
def Obligations.NormalWidthChangeReloads : Prop :=
  ∀ (value : Word) (d : Handle) (s : State) (xs : List Answer) (rest : List Reply), Ready s →
    s.ctx.slotNormal = some d → (capsOf s.params d).writeRegister = false →
    (value ^^^ s.ctx.siocnt) &&& 0x3000 ≠ 0 →
    let mode := modeMap s.params (selector s.ctx.rcnt (value &&& 0x3000))
    (s.ctx.mode = .normal8 ∧ mode = .normal32) ∨ (s.ctx.mode = .normal32 ∧ mode = .normal8) →
    let reload := (if (capsOf s.params d).unload then [Event.unload d] else []) ++
      (if (capsOf s.params d).load then [Event.load d] else [])
    Answered s xs rest → xs.length = reload.length →
    ∃ t, exec (.wsiocnt value) s = .next t ∧ t.ctx.mode = mode ∧ t.ctx.activeDriver = some .normal ∧
      t.ctx.active = some d ∧ ∃ irq, t.hist = s.hist ++ reload ++ irq ∧ ∀ e ∈ irq, isIrq e = true

/-- RESET: the active driver is unloaded, the registers take their defaults, the mode is re-derived from Unset and its
driver loaded; nothing else changes (R280, R281, R282). -/
def Obligations.ResetResult : Prop :=
  ∀ (s : State) (xs : List Answer) (rest : List Reply), Ready s → Answered s xs rest →
    let mode := modeMap s.params (selector s.params.rcntReset 0x0000)
    let events := unloadEvents s.params (s.ctx.lookup s.ctx.mode) ++ loadEvents s.params (s.ctx.lookup mode)
    xs.length = events.length →
    exec .reset s = .next { s with
      ctx := { s.ctx with rcnt := s.params.rcntReset, siocnt := 0x0000, mode := mode, activeDriver := slotOf mode }
      hist := s.hist ++ events
      out := none
      replies := rest }

/-- Construction ends with one reset, which emits nothing, in the state the machine starts from (R283), whose values are the
spec's (R42; `rcnt` and the mode by the defaults of log 2; `activeDriver` denotes none). -/
def Obligations.ConstructionEndsInReset : Prop :=
  exec .reset State.constructed = .next State.reset ∧
  State.reset.ctx.rcnt = State.reset.params.rcntReset ∧ State.reset.ctx.siocnt = 0 ∧
  State.reset.ctx.mode = deriveMode State.reset.params State.reset.params.rcntReset 0 ∧
  (∀ k, State.reset.ctx.slot k = none) ∧ State.reset.ctx.active = none ∧ State.reset.ctx.alive = true ∧
  State.reset.relay.tmode = .idle ∧ State.reset.relay.cursor = 0 ∧ State.reset.relay.crc = 0 ∧
  State.reset.relay.length = 0 ∧ State.reset.relay.inCount = 0 ∧ State.reset.relay.outCount = 0 ∧
  State.reset.relay.outLength = 0 ∧ State.reset.relay.pendAddr = 0 ∧ State.reset.relay.pendPort = 0 ∧
  State.reset.relay.sock = none ∧ State.reset.pending = .idle ∧ State.reset.hist = []

/-- SETDRV with a code that names no slot logs it and changes nothing else (R111). -/
def Obligations.SetdrvUnsupportedMode : Prop :=
  ∀ (code : BitVec 3) (handle : Handle) (s : State), Ready s → 4 ≤ code →
    exec (.setdrv code handle) s = .next { s with hist := s.hist ++ [.log .unsupportedMode], out := none }

/-- SETDRV of a driver that has no init hook, or whose init is answered ok: the old driver is retired, the new one attached,
initialized, put into the slot and, if the slot is the current mode's, made active and loaded (R110). -/
def Obligations.SetdrvInstalls : Prop :=
  ∀ (code : BitVec 3) (d : Handle) (k : Slot) (s : State) (olds inits loads : List Answer) (rest : List Reply),
    Ready s → slotOfCode code = some k → d ≠ 0 → Answered s (olds ++ inits ++ loads) rest →
    let active := slotOf s.ctx.mode = some k
    let retired := retireEvents s k
    let loaded := if active then loadEvents s.params (some d) else []
    olds.length = retired.length → inits.length = (if (capsOf s.params d).init then 1 else 0) →
    (∀ a ∈ inits, a.ok = true) → loads.length = loaded.length →
    exec (.setdrv code d) s = .next { s with
      ctx := { s.ctx.setSlot k (some d) with activeDriver := if active then some k else s.ctx.activeDriver }
      hist := s.hist ++ retired ++ [.attach d] ++ (if (capsOf s.params d).init then [.init d] else []) ++ loaded
      out := none
      replies := rest }

/-- SETDRV of a driver whose init fails: the old driver has been retired, the new one is deinitialized, the failure is
logged, and the context's fields are as before, the old driver still in its slot (R110, R113, R115). -/
def Obligations.SetdrvInitFailureKeepsSlot : Prop :=
  ∀ (code : BitVec 3) (d : Handle) (k : Slot) (s : State) (olds deinits : List Answer) (a : Answer) (rest : List Reply),
    Ready s → slotOfCode code = some k → d ≠ 0 → (capsOf s.params d).init = true → a.ok = false →
    Answered s (olds ++ [a] ++ deinits) rest → olds.length = (retireEvents s k).length →
    deinits.length = (deinitEvents s.params (some d)).length →
    exec (.setdrv code d) s = .next { s with
      hist := s.hist ++ retireEvents s k ++ [.attach d, .init d] ++ deinitEvents s.params (some d) ++ [.log .initFailed]
      out := none
      replies := rest }

/-- SETDRV of the null driver retires the slot's driver and leaves the slot empty; if the slot is the current mode's, no
driver is found for the mode afterwards (R112). -/
def Obligations.SetdrvRemoves : Prop :=
  ∀ (code : BitVec 3) (k : Slot) (s : State) (xs : List Answer) (rest : List Reply), Ready s → slotOfCode code = some k →
    Answered s xs rest → xs.length = (retireEvents s k).length →
    let active := slotOf s.ctx.mode = some k
    let ctx := { s.ctx.setSlot k none with activeDriver := if active then some k else s.ctx.activeDriver }
    exec (.setdrv code 0) s = .next { s with
      ctx := ctx, hist := s.hist ++ retireEvents s k, out := none, replies := rest } ∧
    (active → ctx.lookup ctx.mode = none ∧ ctx.active = none)

/-- DESTROY: the active driver is unloaded, the slots' drivers deinitialized in the order Normal, Multiplayer, Joybus, an
open socket closed, and the block is no longer alive (R117). -/
def Obligations.DestroyResult : Prop :=
  ∀ (s : State) (xs : List Answer) (rest : List Reply), Ready s → Answered s xs rest →
    let events := unloadEvents s.params (s.ctx.lookup s.ctx.mode) ++
      deinitEvents s.params s.ctx.slotNormal ++ deinitEvents s.params s.ctx.slotMultiplayer ++
      deinitEvents s.params s.ctx.slotJoybus ++ s.relay.sock.toList.map Event.sockClose
    xs.length = events.length →
    exec .destroy s = .next { s with
      ctx := { s.ctx with alive := false }
      relay := { s.relay with sock := none }
      hist := s.hist ++ events
      out := none
      replies := rest }

/-! ### Register Gateway -/

/-- WOTHER: the answer of the driver that claims the write, or the value unchanged (R140). -/
def Obligations.WotherResult : Prop :=
  ∀ (off value : Word) (s : State), Ready s →
    (∀ (d : Handle) (a : Answer) (rest : List Reply), s.ctx.lookup s.ctx.mode = some d →
      (capsOf s.params d).writeRegister = true → Answered s [a] rest →
      exec (.wother off value) s = .next { s with
        hist := s.hist ++ [.drvWrite d (.other off) value], out := some a.value, replies := rest }) ∧
    ((∀ d, s.ctx.lookup s.ctx.mode = some d → (capsOf s.params d).writeRegister = false) →
      exec (.wother off value) s = .next { s with out := some value })

/-! ### Relay: the data register's requests and rows -/

/-- A DATA write is the row its byte takes in the state, and a DATA read the row of the transfer mode (R220, R221, R74,
R75); the high byte of the value is ignored. -/
def Obligations.DataRequestsTakeTheirRow : Prop :=
  (∀ (value : Word) (s : State), exec (.wdata value) s = exec ((selectWrite s (lowByte value)).instr (lowByte value)) s) ∧
  (∀ s : State, exec .rdata s = exec (selectRead s).instr s) ∧
  ∀ (value value' : Word) (s : State), lowByte value = lowByte value' → exec (.wdata value) s = exec (.wdata value') s

/-- An instruction of one word is the request that word decodes to, in every state (the model's reading of the table's rows,
log 14). -/
def Obligations.RowsAreTheirRequests : Prop :=
  ∀ (i : Instr) (w : ReqWord) (s : State), encode i = [w] → exec i s = exec (decode w) s

/-- The framer as one function (R168): in Idle and Parse a DATA write takes its byte in, or, at a terminator, dispatches. -/
def Obligations.FramerWriteResult : Prop :=
  ∀ (value : Word) (s : State), Ready s → s.relay.tmode = .idle ∨ s.relay.tmode = .parse →
    (s.relay.tmode = .idle ∨ s.relay.cursor = 0 ∨ lowByte value ≠ 0xFE →
      exec (.wdata value) s = .next { s with relay := framerTook s.relay (lowByte value), out := none }) ∧
    (s.relay.tmode = .parse → 1 ≤ s.relay.cursor → lowByte value = 0xFE → exec (.wdata value) s = exec .wdataTerm s)

/-- START: 0x89 in Idle opens a frame (R160). -/
def Obligations.StartOpensFrame : Prop :=
  ∀ s : State, Ready s → s.relay.tmode = .idle →
    exec .wdataStart s = .next { s with relay := { s.relay with tmode := .parse, buf := [] }, out := none }

/-- IDLE_IGN, CODE_DROP and XFER_IGN change nothing (R161, R165, R223). -/
def Obligations.IgnoredBytesChangeNothing : Prop :=
  ∀ (b : Byte) (s : State), Ready s →
    (s.relay.tmode = .idle → b ≠ 0x89 → exec (.wdataIdleIgn b) s = .next { s with out := none }) ∧
    (s.relay.tmode = .parse → s.relay.cursor = 0 → 0x08 ≤ b → b ≤ 0xFD →
      exec (.wdataCodeDrop b) s = .next { s with out := none }) ∧
    (s.relay.tmode = .recv ∨ s.relay.tmode = .estab ∨ s.relay.tmode = .reserved →
      exec (.wdataXferIgn b) s = .next { s with out := none })

/-- CANCEL: 0x00, 0x01, 0xFE and 0xFF where the code is due end the frame (R164). -/
def Obligations.CancelBytesEndFrame : Prop :=
  ∀ s : State, Ready s → s.relay.tmode = .parse → s.relay.cursor = 0 →
    let t := { s with relay := { s.relay with tmode := .idle }, out := none }
    exec .wdataCancel00 s = .next t ∧ exec .wdataCancel01 s = .next t ∧ exec .wdataCancelFE s = .next t ∧
    exec .wdataCancelFF s = .next t

/-- CMD_*: each of the six codes becomes `buf[0]` (R162). -/
def Obligations.CommandCodesStored : Prop :=
  ∀ s : State, Ready s → s.relay.tmode = .parse → s.relay.cursor = 0 →
    let stored := fun code : Byte => { s with relay := { s.relay with buf := [code] }, out := none }
    exec .wdataCmdSend s = .next (stored 0x02) ∧ exec .wdataCmdRecv s = .next (stored 0x03) ∧
    exec .wdataCmdDuplex s = .next (stored 0x04) ∧ exec .wdataCmdConnect s = .next (stored 0x05) ∧
    exec .wdataCmdDisconnect s = .next (stored 0x06) ∧ exec .wdataCmdDns s = .next (stored 0x07)

/-- APPEND stores the byte at the cursor while the buffer has room; OVERFLOW discards the frame (R163, R167). -/
def Obligations.AppendOrOverflow : Prop :=
  ∀ (b : Byte) (s : State), Ready s → s.relay.tmode = .parse → b ≠ 0xFE →
    (1 ≤ s.relay.cursor → s.relay.cursor ≤ 254 →
      exec (.wdataAppend b) s = .next { s with relay := { s.relay with buf := s.relay.buf ++ [b] }, out := none }) ∧
    (s.relay.cursor = 255 →
      exec (.wdataOverflow b) s = .next { s with relay := { s.relay with tmode := .idle, buf := [] }, out := none })

/-- TERM dispatches `buf[0]` (R166, R190 to R197): what each command does when its precondition holds, the calls answered,
and that otherwise, and for Duplex and DNS, the frame only ends. -/
def Obligations.TermDispatches : Prop :=
  ∀ (c : Command) (ps : List Byte) (s : State), Ready s → s.relay.tmode = .parse → s.relay.buf = c.code :: ps →
    let ended := { s with relay := { s.relay with tmode := .idle }, out := none }
    match c with
    | .send =>
      (∀ (a : Answer) (rest : List Reply), 6 ≤ ps.length → s.relay.sock ≠ none → Answered s [a] rest →
        exec .wdataTerm s = .next { s with
          relay := sendStarted s.relay, hist := s.hist ++ [.sockSend (headerOf s.relay)], out := none, replies := rest }) ∧
      (ps.length < 6 ∨ s.relay.sock = none → exec .wdataTerm s = .next ended)
    | .recv =>
      exec .wdataTerm s = .next (if s.relay.sock = none then ended
        else { s with relay := { s.relay with tmode := .recv, inCount := 0 }, out := none })
    | .duplex => exec .wdataTerm s = .next ended
    | .connect =>
      (∀ (a : Answer) (rest : List Reply), 6 ≤ ps.length → s.relay.sock = none → Answered s [a] rest →
        exec .wdataTerm s = .next { s with
          relay := connected s.relay (if a.ok then some (s.freshHandle a) else none)
          connects := s.connects + (if a.ok then 1 else 0)
          hist := s.hist ++ [.sockConnect s.params.connectAddr s.params.connectPort]
          out := none
          replies := rest }) ∧
      (ps.length < 6 ∨ s.relay.sock ≠ none → exec .wdataTerm s = .next ended)
    | .disconnect =>
      (∀ (h : SockHandle) (a : Answer) (rest : List Reply), s.relay.sock = some h → Answered s [a] rest →
        exec .wdataTerm s = .next { s with
          relay := { s.relay with tmode := .idle, sock := none }
          hist := s.hist ++ [.sockClose h]
          out := none
          replies := rest }) ∧
      (s.relay.sock = none → exec .wdataTerm s = .next ended)
    | .dns => exec .wdataTerm s = .next ended

/-- PAYLOAD_OUT: one byte to the socket, one more counted, Idle when the counter reaches the length (R222). -/
def Obligations.PayloadOutResult : Prop :=
  ∀ (b : Byte) (s : State) (a : Answer) (rest : List Reply), Ready s → s.relay.tmode = .send → Answered s [a] rest →
    exec (.wdataPayloadOut b) s = .next { s with
      relay := { s.relay with
        outCount := s.relay.outCount + 1
        tmode := if s.relay.length.toNat ≤ (s.relay.outCount + 1).toNat then .idle else .send }
      hist := s.hist ++ [.sockSend [b]]
      out := none
      replies := rest }

/-- PAYLOAD_IN: one byte from the socket, zero-extended, one more counted, Idle when the counter reaches the length (R224). -/
def Obligations.PayloadInResult : Prop :=
  ∀ (s : State) (a : Answer) (rest : List Reply), Ready s → s.relay.tmode = .recv → Answered s [a] rest →
    exec .rdataPayloadIn s = .next { s with
      relay := { s.relay with
        inCount := s.relay.inCount + 1
        tmode := if s.relay.length.toNat ≤ (s.relay.inCount + 1).toNat then .idle else .recv }
      hist := s.hist ++ [.sockRecv]
      out := some (a.byte.setWidth 16)
      replies := rest }

/-- DUPLEX_OUT and DUPLEX_IN, which no transition reaches: both counters must reach their targets (R226, R227). Which target
belongs to which counter is not in the source: pairing `inCount` with `length` and `outCount` with `outLength` is the spec's
own choice (R226, D11). -/
def Obligations.DuplexResults : Prop :=
  ∀ (b : Byte) (s : State) (a : Answer) (rest : List Reply), Ready s → s.relay.tmode = .sendRecv → Answered s [a] rest →
    exec (.wdataDuplexOut b) s = .next { s with
      relay := { s.relay with
        outCount := s.relay.outCount + 1
        tmode := if s.relay.length.toNat ≤ s.relay.inCount.toNat ∧
          s.relay.outLength.toNat ≤ (s.relay.outCount + 1).toNat then .idle else .sendRecv }
      hist := s.hist ++ [.sockSend [b]]
      out := none
      replies := rest } ∧
    exec .rdataDuplexIn s = .next { s with
      relay := { s.relay with
        inCount := s.relay.inCount + 1
        tmode := if s.relay.length.toNat ≤ (s.relay.inCount + 1).toNat ∧
          s.relay.outLength.toNat ≤ s.relay.outCount.toNat then .idle else .sendRecv }
      hist := s.hist ++ [.sockRecv]
      out := some (a.byte.setWidth 16)
      replies := rest }

/-- READ_NODATA returns NO_DATA and READ_ESTAB returns 0x0000; neither changes anything else, nor does the RDATA that takes
them, so that two reads return the same (R58, R221, R225). -/
def Obligations.ReadsWithoutSideEffects : Prop :=
  ∀ s : State, Ready s →
    (s.relay.tmode = .idle ∨ s.relay.tmode = .parse ∨ s.relay.tmode = .send ∨ s.relay.tmode = .reserved →
      exec .rdataReadNodata s = .next { s with out := some s.params.noData } ∧
      exec .rdata s = .next { s with out := some s.params.noData }) ∧
    (s.relay.tmode = .estab →
      exec .rdataReadEstab s = .next { s with out := some 0x0000 } ∧ exec .rdata s = .next { s with out := some 0x0000 })

/-- A socket call with no answer holds the request at the call: the event is emitted, nothing after it is done (R266). -/
def Obligations.UnansweredSocketCallHolds : Prop :=
  ∀ (value : Word) (s : State), Ready s → s.replies = [] →
    (s.relay.tmode = .send → ∃ acts, exec (.wdata value) s = .next { s with
      hist := s.hist ++ [.sockSend [lowByte value]]
      pending := .held (.sockSend [lowByte value]) true acts
      out := none }) ∧
    (s.relay.tmode = .recv → ∃ acts, exec .rdata s = .next { s with
      hist := s.hist ++ [.sockRecv], pending := .held .sockRecv true acts, out := none }) ∧
    (∀ (ps : List Byte) (h : SockHandle), s.relay.tmode = .parse → s.relay.buf = 0x06 :: ps → s.relay.sock = some h →
      ∃ acts, exec .wdataTerm s = .next { s with
        relay := { s.relay with tmode := .idle }
        hist := s.hist ++ [.sockClose h]
        pending := .held (.sockClose h) true acts
        out := none })

/-! ### Relay: frames and phases -/

/-- The framing round trip: from Idle, 0x89, a code and up to 254 payload bytes without 0xFE leave exactly the code and the
payload in the buffer, and the terminator then dispatches them, as the whole frame does (R169, R76). -/
def Obligations.FrameReachesDispatch : Prop :=
  ∀ (c : Command) (ps : List Byte) (s : State), Ready s → s.relay.tmode = .idle → payloadFits ps = true →
    let parsed := { s with relay := { s.relay with tmode := .parse, buf := c.code :: ps }, out := none }
    writeBytes (0x89 :: c.code :: ps) s = .next parsed ∧ exec (c.instr ps) s = exec .wdataTerm parsed

/-- Writing 255 bytes other than 0xFE after a valid code resets to Idle with an empty buffer, and no fewer do (R170, R167). -/
def Obligations.OverflowAfter255Bytes : Prop :=
  ∀ (c : Command) (ps : List Byte) (s : State), Ready s → s.relay.tmode = .parse → s.relay.buf = [c.code] →
    ps.contains 0xFE = false →
    (ps.length = 255 → writeBytes ps s = .next { s with relay := { s.relay with tmode := .idle, buf := [] }, out := none }) ∧
    (1 ≤ ps.length → ps.length ≤ 254 →
      writeBytes ps s = .next { s with relay := { s.relay with buf := c.code :: ps }, out := none })

/-- A Send frame from Idle (R192): with a socket and six payload bytes the header goes out and the Send phase begins;
otherwise the frame only ends, and the buffer holds it. -/
def Obligations.SendFrameResult : Prop :=
  ∀ (ps : List Byte) (s : State), Ready s → s.relay.tmode = .idle → payloadFits ps = true →
    let r := { s.relay with buf := 0x02 :: ps }
    (∀ (a : Answer) (rest : List Reply), 6 ≤ ps.length → s.relay.sock ≠ none → Answered s [a] rest →
      exec (.cmdSend ps) s = .next { s with
        relay := sendStarted r, hist := s.hist ++ [.sockSend (headerOf r)], out := none, replies := rest }) ∧
    (ps.length < 6 ∨ s.relay.sock = none → exec (.cmdSend ps) s = .next { s with relay := r, out := none })

/-- A Recv frame from Idle (R193): with a socket the Recv phase begins, with the length of the last Send; otherwise the
frame only ends. -/
def Obligations.RecvFrameResult : Prop :=
  ∀ (ps : List Byte) (s : State), Ready s → s.relay.tmode = .idle → payloadFits ps = true →
    let r := { s.relay with buf := 0x03 :: ps }
    exec (.cmdRecv ps) s = .next
      (if s.relay.sock ≠ none then { s with relay := { r with tmode := .recv, inCount := 0 }, out := none }
      else { s with relay := r, out := none })

/-- Duplex and DNS frames from Idle do nothing but fill the buffer (R194, R197). -/
def Obligations.UnimplementedFramesResult : Prop :=
  ∀ (ps : List Byte) (s : State), Ready s → s.relay.tmode = .idle → payloadFits ps = true →
    exec (.cmdDuplex ps) s = .next { s with relay := { s.relay with buf := 0x04 :: ps }, out := none } ∧
    exec (.cmdDns ps) s = .next { s with relay := { s.relay with buf := 0x07 :: ps }, out := none }

/-- A Connect frame from Idle (R195, R295): with no socket and six payload bytes the parsed target is stored, the fixed one
is connected to, and the socket is present exactly if the connect answers ok; otherwise the frame only ends. The handle is
fresh (R263): in a state that meets the invariant it is none that the block holds or has closed (its form is the model's
choice, log 28). -/
def Obligations.ConnectFrameResult : Prop :=
  ∀ (ps : List Byte) (s : State), Ready s → s.relay.tmode = .idle → payloadFits ps = true →
    let r := { s.relay with buf := 0x05 :: ps }
    (∀ (a : Answer) (rest : List Reply), 6 ≤ ps.length → s.relay.sock = none → Answered s [a] rest →
      exec (.cmdConnect ps) s = .next { s with
        relay := connected r (if a.ok then some (s.freshHandle a) else none)
        connects := s.connects + (if a.ok then 1 else 0)
        hist := s.hist ++ [.sockConnect s.params.connectAddr s.params.connectPort]
        out := none
        replies := rest }) ∧
    (ps.length < 6 ∨ s.relay.sock ≠ none → exec (.cmdConnect ps) s = .next { s with relay := r, out := none }) ∧
    (Settled s → ∀ a : Answer, ¬ everHeld s (s.freshHandle a))

/-- A Disconnect frame from Idle closes the socket if there is one (R196). -/
def Obligations.DisconnectFrameResult : Prop :=
  ∀ (ps : List Byte) (s : State), Ready s → s.relay.tmode = .idle → payloadFits ps = true →
    let r := { s.relay with buf := 0x06 :: ps }
    (∀ (h : SockHandle) (a : Answer) (rest : List Reply), s.relay.sock = some h → Answered s [a] rest →
      exec (.cmdDisconnect ps) s = .next { s with
        relay := { r with sock := none }, hist := s.hist ++ [.sockClose h], out := none, replies := rest }) ∧
    (s.relay.sock = none → exec (.cmdDisconnect ps) s = .next { s with relay := r, out := none })

/-- A frame that completes is its requests, presented at the port one after another and stepped through (R84; the model's
reading of a frame as an instruction, log 15). -/
def Obligations.FramesRunAsTheirRequests : Prop :=
  ∀ (c : Command) (ps : List Byte) (s t : State), s.pending = .idle → s.port = [] →
    exec (c.instr ps) s = .next t → t.pending = .idle →
    steps (ps.length + 3) { s with port := encode (c.instr ps) } = .next t

/-- A Send phase ends after exactly L DATA writes for a length L ≥ 1, and after one for L = 0; each write sends its byte, and
fewer writes leave the phase in Send (R229, R230). -/
def Obligations.SendPhaseTakesLengthWrites : Prop :=
  ∀ (bs : List Byte) (s : State) (xs : List Answer) (rest : List Reply), Ready s → s.relay.tmode = .send →
    s.relay.outCount = 0 → 1 ≤ bs.length → bs.length ≤ max s.relay.length.toNat 1 → xs.length = bs.length →
    Answered s xs rest →
    performAll (bs.map fun b => .wdata (b.setWidth 16)) s = .next { s with
      relay := { s.relay with
        outCount := BitVec.ofNat 16 bs.length
        tmode := if bs.length = max s.relay.length.toNat 1 then .idle else .send }
      hist := s.hist ++ bs.map fun b => .sockSend [b]
      out := none
      replies := rest }

/-- A Recv phase ends after exactly L DATA reads for a length L ≥ 1, and after one for L = 0; each read returns the next byte
of the socket, and fewer reads leave the phase in Recv (R229, R230). -/
def Obligations.RecvPhaseTakesLengthReads : Prop :=
  ∀ (s : State) (xs : List Answer) (x : Answer) (rest : List Reply), Ready s → s.relay.tmode = .recv →
    s.relay.inCount = 0 → xs.length + 1 ≤ max s.relay.length.toNat 1 → Answered s (xs ++ [x]) rest →
    performAll (List.replicate (xs.length + 1) .rdata) s = .next { s with
      relay := { s.relay with
        inCount := BitVec.ofNat 16 (xs.length + 1)
        tmode := if xs.length + 1 = max s.relay.length.toNat 1 then .idle else .recv }
      hist := s.hist ++ List.replicate (xs.length + 1) .sockRecv
      out := some (x.byte.setWidth 16)
      replies := rest }
end

