-- ==== Sys2Proof/Laws/Decode.lean ====
section
/-! SUPPORT. The fields of a built request word, and what the request words decode to. -/

namespace Sys2Proof

@[simp] theorem opField_requestWord (op : BitVec 4) (aux data : Word) : opField (requestWord op aux data) = op := by
  ext i hi
  simp only [opField, requestWord, BitVec.getElem_extractLsb', BitVec.getLsbD_append]
  grind

@[simp] theorem auxField_requestWord (op : BitVec 4) (aux data : Word) : auxField (requestWord op aux data) = aux := by
  ext i hi
  simp only [auxField, requestWord, BitVec.getElem_extractLsb', BitVec.getLsbD_append]
  grind

@[simp] theorem dataField_requestWord (op : BitVec 4) (aux data : Word) : dataField (requestWord op aux data) = data := by
  ext i hi
  simp only [dataField, requestWord, BitVec.getElem_extractLsb', BitVec.getLsbD_append]
  grind

@[simp] theorem lowByte_zext16 (b : Byte) : lowByte (zext16 b) = b := by
  ext i hi
  simp [lowByte, zext16, BitVec.getElem_extractLsb']
  grind

/-- The word that writes a byte decodes to the WDATA of that byte. -/
@[simp] theorem decode_dataWord (b : Byte) : decode (dataWord b) = .wdata (zext16 b) := by
  simp [decode, dataWord]

@[simp] theorem decode_readWord : decode readWord = .rdata := by
  simp [decode, readWord]

/-- The mode code of a SETDRV comes back from `aux`, whose other bits are zero. -/
@[simp] theorem code_of_aux (code : BitVec 3) : (code.setWidth 16).extractLsb' 0 3 = code := by
  ext i hi
  simp [BitVec.getElem_extractLsb']
  grind

/-- A command's code is a command code (R78). -/
@[simp] theorem commandOf_code (c : Command) : commandOf c.code = some c := by
  cases c <;> rfl

/-- A command's code is not dropped, nor any other row but its own (R74). -/
theorem firstByteRow_code (c : Command) : firstByteRow c.code ≠ .codeDrop := by
  cases c <;> decide

/-- A payload that is read ends at the first terminator and fits. -/
theorem takePayload_inv : ∀ (bs : List Byte) (n : Nat) (ps after : List Byte), takePayload n bs = .ok (ps, after) →
    bs = ps ++ 0xFE :: after ∧ ps.length ≤ n ∧ 0xFE ∉ ps := by
  intro bs
  induction bs with
  | nil => intro n ps after h; cases n <;> simp [takePayload] at h
  | cons b bs ih =>
    intro n ps after h
    cases n with
    | zero =>
      simp only [takePayload] at h
      split at h
      · rename_i hb; cases h; exact ⟨by rw [hb]; rfl, by simp, by simp⟩
      · cases h
    | succ n =>
      simp only [takePayload] at h
      split at h
      · rename_i hb; cases h; exact ⟨by rw [hb]; rfl, by simp, by simp⟩
      · rename_i hb
        split at h
        · rename_i qs aft hq
          cases h
          obtain ⟨h1, h2, h3⟩ := ih n qs after hq
          refine ⟨by rw [h1]; rfl, by simpa using h2, ?_⟩
          intro e
          rcases List.mem_cons.mp e with e | e
          · exact hb e.symm
          · exact h3 e
        · cases h

/-- A byte that is a command's code is that code (R78). -/
theorem commandOf_inv : ∀ b c, commandOf b = some c → b = c.code := by
  intro b c h
  have : ∀ b : Byte, ∀ c ∈ [Command.send, .recv, .duplex, .connect, .disconnect, .dns], commandOf b = some c → b = c.code := by
    decide
  exact this b c (by cases c <;> simp) h

/-- What is read after 0x89 is dropped bytes, a code, its payload and the terminator. -/
theorem takeCode_inv : ∀ (bs : List Byte) (i : Instr) (after : List Byte), takeCode bs = .ok (i, after) →
    ∃ (drops : List Byte) (c : Command) (ps : List Byte), bs = drops ++ c.code :: (ps ++ 0xFE :: after) ∧
      (∀ b ∈ drops, firstByteRow b = .codeDrop) ∧ i = c.instr ps ∧ payloadFits ps = true := by
  intro bs
  induction bs with
  | nil => intro i after h; simp [takeCode] at h
  | cons b bs ih =>
    intro i after h
    rw [takeCode] at h
    split at h
    · rename_i hb
      obtain ⟨d, c, ps, h1, h2, h3⟩ := ih i after h
      exact ⟨b :: d, c, ps, by rw [h1]; rfl, by simpa [hb] using h2, h3⟩
    · split at h
      · cases h
      · rename_i c hc
        split at h
        · rename_i ps aft hp
          cases h
          obtain ⟨h1, h2, h3⟩ := takePayload_inv _ _ _ _ hp
          refine ⟨[], c, ps, ?_, by simp, rfl, ?_⟩
          · rw [commandOf_inv b c hc, h1]; rfl
          · simp [payloadFits, h2]; exact h3
        · cases h

end Sys2Proof
end

