-- ==== Sys2Proof/Laws/State.lean ====
section
/-! SUPPORT. One lemma for each field of State under each named update, and the slots under `setSlot`. -/

namespace Sys2Proof.Machine

open Sys2Proof

@[simp] theorem State.emit_params (s : State) (e : Event) : (s.emit e).params = s.params := rfl
@[simp] theorem State.emit_ctx (s : State) (e : Event) : (s.emit e).ctx = s.ctx := rfl
@[simp] theorem State.emit_relay (s : State) (e : Event) : (s.emit e).relay = s.relay := rfl
@[simp] theorem State.emit_hist (s : State) (e : Event) : (s.emit e).hist = s.hist ++ [e] := rfl
@[simp] theorem State.emit_pending (s : State) (e : Event) : (s.emit e).pending = s.pending := rfl
@[simp] theorem State.emit_out (s : State) (e : Event) : (s.emit e).out = s.out := rfl
@[simp] theorem State.emit_port (s : State) (e : Event) : (s.emit e).port = s.port := rfl
@[simp] theorem State.emit_replies (s : State) (e : Event) : (s.emit e).replies = s.replies := rfl
@[simp] theorem State.emit_connects (s : State) (e : Event) : (s.emit e).connects = s.connects := rfl

@[simp] theorem State.withOut_params (s : State) (v : Option Word) : (s.withOut v).params = s.params := rfl
@[simp] theorem State.withOut_ctx (s : State) (v : Option Word) : (s.withOut v).ctx = s.ctx := rfl
@[simp] theorem State.withOut_relay (s : State) (v : Option Word) : (s.withOut v).relay = s.relay := rfl
@[simp] theorem State.withOut_hist (s : State) (v : Option Word) : (s.withOut v).hist = s.hist := rfl
@[simp] theorem State.withOut_pending (s : State) (v : Option Word) : (s.withOut v).pending = s.pending := rfl
@[simp] theorem State.withOut_out (s : State) (v : Option Word) : (s.withOut v).out = v := rfl
@[simp] theorem State.withOut_port (s : State) (v : Option Word) : (s.withOut v).port = s.port := rfl
@[simp] theorem State.withOut_replies (s : State) (v : Option Word) : (s.withOut v).replies = s.replies := rfl
@[simp] theorem State.withOut_connects (s : State) (v : Option Word) : (s.withOut v).connects = s.connects := rfl

@[simp] theorem State.withPending_params (s : State) (p : Pending) : (s.withPending p).params = s.params := rfl
@[simp] theorem State.withPending_ctx (s : State) (p : Pending) : (s.withPending p).ctx = s.ctx := rfl
@[simp] theorem State.withPending_relay (s : State) (p : Pending) : (s.withPending p).relay = s.relay := rfl
@[simp] theorem State.withPending_hist (s : State) (p : Pending) : (s.withPending p).hist = s.hist := rfl
@[simp] theorem State.withPending_pending (s : State) (p : Pending) : (s.withPending p).pending = p := rfl
@[simp] theorem State.withPending_out (s : State) (p : Pending) : (s.withPending p).out = s.out := rfl
@[simp] theorem State.withPending_port (s : State) (p : Pending) : (s.withPending p).port = s.port := rfl
@[simp] theorem State.withPending_replies (s : State) (p : Pending) : (s.withPending p).replies = s.replies := rfl
@[simp] theorem State.withPending_connects (s : State) (p : Pending) : (s.withPending p).connects = s.connects := rfl

@[simp] theorem State.withReplies_params (s : State) (rs : List Reply) : (s.withReplies rs).params = s.params := rfl
@[simp] theorem State.withReplies_ctx (s : State) (rs : List Reply) : (s.withReplies rs).ctx = s.ctx := rfl
@[simp] theorem State.withReplies_relay (s : State) (rs : List Reply) : (s.withReplies rs).relay = s.relay := rfl
@[simp] theorem State.withReplies_hist (s : State) (rs : List Reply) : (s.withReplies rs).hist = s.hist := rfl
@[simp] theorem State.withReplies_pending (s : State) (rs : List Reply) : (s.withReplies rs).pending = s.pending := rfl
@[simp] theorem State.withReplies_out (s : State) (rs : List Reply) : (s.withReplies rs).out = s.out := rfl
@[simp] theorem State.withReplies_port (s : State) (rs : List Reply) : (s.withReplies rs).port = s.port := rfl
@[simp] theorem State.withReplies_replies (s : State) (rs : List Reply) : (s.withReplies rs).replies = rs := rfl
@[simp] theorem State.withReplies_connects (s : State) (rs : List Reply) : (s.withReplies rs).connects = s.connects := rfl

@[simp] theorem State.withPort_params (s : State) (ws : List ReqWord) : (s.withPort ws).params = s.params := rfl
@[simp] theorem State.withPort_ctx (s : State) (ws : List ReqWord) : (s.withPort ws).ctx = s.ctx := rfl
@[simp] theorem State.withPort_relay (s : State) (ws : List ReqWord) : (s.withPort ws).relay = s.relay := rfl
@[simp] theorem State.withPort_hist (s : State) (ws : List ReqWord) : (s.withPort ws).hist = s.hist := rfl
@[simp] theorem State.withPort_pending (s : State) (ws : List ReqWord) : (s.withPort ws).pending = s.pending := rfl
@[simp] theorem State.withPort_out (s : State) (ws : List ReqWord) : (s.withPort ws).out = s.out := rfl
@[simp] theorem State.withPort_port (s : State) (ws : List ReqWord) : (s.withPort ws).port = ws := rfl
@[simp] theorem State.withPort_replies (s : State) (ws : List ReqWord) : (s.withPort ws).replies = s.replies := rfl
@[simp] theorem State.withPort_connects (s : State) (ws : List ReqWord) : (s.withPort ws).connects = s.connects := rfl

@[simp] theorem State.withCtx_params (s : State) (c : SioContext) : (s.withCtx c).params = s.params := rfl
@[simp] theorem State.withCtx_ctx (s : State) (c : SioContext) : (s.withCtx c).ctx = c := rfl
@[simp] theorem State.withCtx_relay (s : State) (c : SioContext) : (s.withCtx c).relay = s.relay := rfl
@[simp] theorem State.withCtx_hist (s : State) (c : SioContext) : (s.withCtx c).hist = s.hist := rfl
@[simp] theorem State.withCtx_pending (s : State) (c : SioContext) : (s.withCtx c).pending = s.pending := rfl
@[simp] theorem State.withCtx_out (s : State) (c : SioContext) : (s.withCtx c).out = s.out := rfl
@[simp] theorem State.withCtx_port (s : State) (c : SioContext) : (s.withCtx c).port = s.port := rfl
@[simp] theorem State.withCtx_replies (s : State) (c : SioContext) : (s.withCtx c).replies = s.replies := rfl
@[simp] theorem State.withCtx_connects (s : State) (c : SioContext) : (s.withCtx c).connects = s.connects := rfl

@[simp] theorem State.withRelay_params (s : State) (r : RelayState) : (s.withRelay r).params = s.params := rfl
@[simp] theorem State.withRelay_ctx (s : State) (r : RelayState) : (s.withRelay r).ctx = s.ctx := rfl
@[simp] theorem State.withRelay_relay (s : State) (r : RelayState) : (s.withRelay r).relay = r := rfl
@[simp] theorem State.withRelay_hist (s : State) (r : RelayState) : (s.withRelay r).hist = s.hist := rfl
@[simp] theorem State.withRelay_pending (s : State) (r : RelayState) : (s.withRelay r).pending = s.pending := rfl
@[simp] theorem State.withRelay_out (s : State) (r : RelayState) : (s.withRelay r).out = s.out := rfl
@[simp] theorem State.withRelay_port (s : State) (r : RelayState) : (s.withRelay r).port = s.port := rfl
@[simp] theorem State.withRelay_replies (s : State) (r : RelayState) : (s.withRelay r).replies = s.replies := rfl
@[simp] theorem State.withRelay_connects (s : State) (r : RelayState) : (s.withRelay r).connects = s.connects := rfl

@[simp] theorem State.withConnects_params (s : State) (n : Nat) : (s.withConnects n).params = s.params := rfl
@[simp] theorem State.withConnects_ctx (s : State) (n : Nat) : (s.withConnects n).ctx = s.ctx := rfl
@[simp] theorem State.withConnects_relay (s : State) (n : Nat) : (s.withConnects n).relay = s.relay := rfl
@[simp] theorem State.withConnects_hist (s : State) (n : Nat) : (s.withConnects n).hist = s.hist := rfl
@[simp] theorem State.withConnects_pending (s : State) (n : Nat) : (s.withConnects n).pending = s.pending := rfl
@[simp] theorem State.withConnects_out (s : State) (n : Nat) : (s.withConnects n).out = s.out := rfl
@[simp] theorem State.withConnects_port (s : State) (n : Nat) : (s.withConnects n).port = s.port := rfl
@[simp] theorem State.withConnects_replies (s : State) (n : Nat) : (s.withConnects n).replies = s.replies := rfl
@[simp] theorem State.withConnects_connects (s : State) (n : Nat) : (s.withConnects n).connects = n := rfl

/-- The cursor is how many bytes the buffer holds. -/
@[simp] theorem RelayState.cursor_eq (r : RelayState) : r.cursor = r.buf.length := rfl

@[simp] theorem SioContext.setSlot_rcnt (c : SioContext) (k : Slot) (d : Option Handle) : (c.setSlot k d).rcnt = c.rcnt := by cases k <;> rfl
@[simp] theorem SioContext.setSlot_siocnt (c : SioContext) (k : Slot) (d : Option Handle) : (c.setSlot k d).siocnt = c.siocnt := by cases k <;> rfl
@[simp] theorem SioContext.setSlot_mode (c : SioContext) (k : Slot) (d : Option Handle) : (c.setSlot k d).mode = c.mode := by cases k <;> rfl
@[simp] theorem SioContext.setSlot_activeDriver (c : SioContext) (k : Slot) (d : Option Handle) : (c.setSlot k d).activeDriver = c.activeDriver := by cases k <;> rfl
@[simp] theorem SioContext.setSlot_alive (c : SioContext) (k : Slot) (d : Option Handle) : (c.setSlot k d).alive = c.alive := by cases k <;> rfl
@[simp] theorem SioContext.slot_setSlot_self (c : SioContext) (k : Slot) (d : Option Handle) : (c.setSlot k d).slot k = d := by
  cases k <;> rfl
theorem SioContext.slot_setSlot_of_ne (c : SioContext) {k j : Slot} (d : Option Handle) (h : j ≠ k) :
    (c.setSlot k d).slot j = c.slot j := by
  cases k <;> cases j <;> first | rfl | exact absurd rfl h

end Sys2Proof.Machine
end

