-- ==== Sys2Proof/Laws/Run.lean ====
section
/-! SUPPORT. What running a list of acts does, act by act, and once for all what a run leaves alone and how it waits. -/

namespace Sys2Proof.Machine

open Sys2Proof

/-! ### One act at a time -/

@[simp] theorem run_nil (r : Bool) (s : State) : run r [] s = .next (s.withPending .idle) := rfl

/-- An act that waits on nothing and does not return is applied, and the run goes on. -/
theorem run_quiet {r : Bool} {a : Act} (hw : a.waitsOn r = none) (hr : a.returns r = false) (rest : List Act) (s : State) :
    run r (a :: rest) s = run r rest (a.apply r s) := by
  rw [run]; simp [hw, hr]

@[simp] theorem run_emit (r : Bool) (e : Event) (rest : List Act) (s : State) :
    run r (.emit e :: rest) s = run r rest (s.emit e) := rfl
@[simp] theorem run_setOut (r : Bool) (v : Word) (rest : List Act) (s : State) :
    run r (.setOut v :: rest) s = run r rest (s.withOut (some v)) := rfl
@[simp] theorem run_setRcnt (r : Bool) (v : Word) (rest : List Act) (s : State) :
    run r (.setRcnt v :: rest) s = run r rest (s.withCtx { s.ctx with rcnt := v }) := rfl
@[simp] theorem run_setSiocnt (r : Bool) (v : Word) (rest : List Act) (s : State) :
    run r (.setSiocnt v :: rest) s = run r rest (s.withCtx { s.ctx with siocnt := v }) := rfl
@[simp] theorem run_setMode (r : Bool) (m : LinkMode) (rest : List Act) (s : State) :
    run r (.setMode m :: rest) s = run r rest (s.withCtx { s.ctx with mode := m }) := rfl
@[simp] theorem run_setActive (r : Bool) (k : Option Slot) (rest : List Act) (s : State) :
    run r (.setActive k :: rest) s = run r rest (s.withCtx { s.ctx with activeDriver := k }) := rfl
@[simp] theorem run_setSlot (r : Bool) (k : Slot) (d : Option Handle) (rest : List Act) (s : State) :
    run r (.setSlot k d :: rest) s = run r rest (s.withCtx (s.ctx.setSlot k d)) := rfl
@[simp] theorem run_setAlive (r : Bool) (b : Bool) (rest : List Act) (s : State) :
    run r (.setAlive b :: rest) s = run r rest (s.withCtx { s.ctx with alive := b }) := rfl
@[simp] theorem run_setTmode (r : Bool) (t : TMode) (rest : List Act) (s : State) :
    run r (.setTmode t :: rest) s = run r rest (s.withRelay { s.relay with tmode := t }) := rfl
@[simp] theorem run_setBuf (r : Bool) (bytes : List Byte) (rest : List Act) (s : State) :
    run r (.setBuf bytes :: rest) s = run r rest (s.withRelay { s.relay with buf := bytes }) := rfl
@[simp] theorem run_setCrc (r : Bool) (v : Word32) (rest : List Act) (s : State) :
    run r (.setCrc v :: rest) s = run r rest (s.withRelay { s.relay with crc := v }) := rfl
@[simp] theorem run_setLength (r : Bool) (v : Word) (rest : List Act) (s : State) :
    run r (.setLength v :: rest) s = run r rest (s.withRelay { s.relay with length := v }) := rfl
@[simp] theorem run_setInCount (r : Bool) (v : Word) (rest : List Act) (s : State) :
    run r (.setInCount v :: rest) s = run r rest (s.withRelay { s.relay with inCount := v }) := rfl
@[simp] theorem run_setOutCount (r : Bool) (v : Word) (rest : List Act) (s : State) :
    run r (.setOutCount v :: rest) s = run r rest (s.withRelay { s.relay with outCount := v }) := rfl
@[simp] theorem run_setPendAddr (r : Bool) (v : Word32) (rest : List Act) (s : State) :
    run r (.setPendAddr v :: rest) s = run r rest (s.withRelay { s.relay with pendAddr := v }) := rfl
@[simp] theorem run_setPendPort (r : Bool) (v : Word) (rest : List Act) (s : State) :
    run r (.setPendPort v :: rest) s = run r rest (s.withRelay { s.relay with pendPort := v }) := rfl
@[simp] theorem run_setSock (r : Bool) (h : Option SockHandle) (rest : List Act) (s : State) :
    run r (.setSock h :: rest) s = run r rest (s.withRelay { s.relay with sock := h }) := rfl

@[simp] theorem run_callIfFailed_ok (e : Event) (rest : List Act) (s : State) :
    run true (.callIfFailed e :: rest) s = run true rest s := rfl
@[simp] theorem run_callIfFailed_failed (e : Event) (rest : List Act) (s : State) :
    run false (.callIfFailed e :: rest) s = run false (.call e :: rest) s := rfl
@[simp] theorem run_emitIfFailed_ok (e : Event) (rest : List Act) (s : State) :
    run true (.emitIfFailed e :: rest) s = run true rest s := rfl
@[simp] theorem run_emitIfFailed_failed (e : Event) (rest : List Act) (s : State) :
    run false (.emitIfFailed e :: rest) s = run false rest (s.emit e) := rfl
@[simp] theorem run_returnIfFailed_ok (rest : List Act) (s : State) : run true (.returnIfFailed :: rest) s = run true rest s := rfl
@[simp] theorem run_returnIfFailed_failed (rest : List Act) (s : State) :
    run false (.returnIfFailed :: rest) s = .next (s.withPending .idle) := rfl

/-! ### Calls -/

/-- A call that is answered: the answer is used and the run goes on. -/
theorem run_call_answered {s : State} {x : Answer} {replies : List Reply} (h : s.replies = .answer x :: replies)
    (r : Bool) (e : Event) (rest : List Act) :
    run r (.call e :: rest) s = run (answerR r e x) rest (((s.emit e).withReplies replies).useAnswer e x) := by
  rw [run]; simp [Act.waitsOn, h]

/-- A call that is not answered yet holds the request there. -/
theorem run_call_held {s : State} (h : s.replies = []) (r : Bool) (e : Event) (rest : List Act) :
    run r (.call e :: rest) s = .next ((s.emit e).withPending (.held e r rest)) := by
  rw [run]; simp [Act.waitsOn, h]

/-- A request of the called agent's own is refused. -/
theorem run_call_reentrant {s : State} {w : ReqWord} {replies : List Reply} (h : s.replies = .request w :: replies)
    (r : Bool) (e : Event) (rest : List Act) : run r (.call e :: rest) s = .refused .reentrant := by
  rw [run]; simp [Act.waitsOn, h]

/-- A call whose answer leaves nothing in the block. -/
def Event.plain : Event → Bool
  | .attach _ => true
  | .init _ => false
  | .deinit _ => true
  | .load _ => true
  | .unload _ => true
  | .drvWrite _ reg _ => reg == .rcnt
  | .raiseIrq _ _ => true
  | .sockConnect _ _ => false
  | .sockSend _ => true
  | .sockRecv => false
  | .sockClose _ => true
  | .log _ => true

theorem useAnswer_plain {e : Event} (h : e.plain = true) (s : State) (x : Answer) : s.useAnswer e x = s := by
  cases e with
  | drvWrite d reg v =>
    obtain rfl : reg = .rcnt := by simpa [Event.plain] using h
    rfl
  | _ => simp_all [Event.plain, State.useAnswer]

theorem answerR_plain {e : Event} (h : e.plain = true) (r : Bool) (x : Answer) : answerR r e x = r := by
  cases e <;> simp_all [Event.plain, answerR]

@[simp] theorem freshHandle_eq (s : State) (a : Answer) : s.freshHandle a = ⟨s.connects, a.handle⟩ := rfl

/-- A connect that fails leaves the state; one that succeeds leaves a fresh handle in the socket and is counted (R195, R263). -/
theorem useConnect_cases (s : State) (a : Answer) :
    (a.ok = false ∧ s.useConnect a = s) ∨
    (a.ok = true ∧ s.useConnect a =
      { s with relay := { s.relay with sock := some (s.freshHandle a) }, connects := s.connects + 1 }) := by
  cases h : a.ok with
  | false => exact .inl ⟨rfl, by simp [State.useConnect, h]⟩
  | true => exact .inr ⟨rfl, by simp only [State.useConnect, h, if_true]; rfl⟩

/-- Using an answer and the state's other updates do not disturb each other. -/
@[simp] theorem useAnswer_withPending (s : State) (p : Pending) (e : Event) (x : Answer) :
    (s.withPending p).useAnswer e x = (s.useAnswer e x).withPending p := by
  cases e with
  | drvWrite d reg v => cases reg <;> rfl
  | sockConnect _ _ =>
    cases hx : x.ok with
    | false => simp [State.useAnswer, State.useConnect, hx]
    | true => simp only [State.useAnswer, State.useConnect, hx, if_true]; rfl
  | _ => rfl
@[simp] theorem useAnswer_replies (s : State) (e : Event) (x : Answer) : (s.useAnswer e x).replies = s.replies := by
  cases e with
  | drvWrite d reg v => cases reg <;> rfl
  | sockConnect _ _ => cases hx : x.ok <;> simp [State.useAnswer, State.useConnect, hx]
  | _ => rfl
theorem useAnswer_withReplies (s : State) (rs : List Reply) (e : Event) (x : Answer) :
    (s.withReplies rs).useAnswer e x = (s.useAnswer e x).withReplies rs := by
  cases e with
  | drvWrite d reg v => cases reg <;> rfl
  | sockConnect _ _ =>
    cases hx : x.ok with
    | false => simp [State.useAnswer, State.useConnect, hx]
    | true => simp only [State.useAnswer, State.useConnect, hx, if_true]; rfl
  | _ => rfl

/-- Applying an act does not disturb what is pending, and neither reads nor writes the replies. -/
theorem apply_withPending (a : Act) (r : Bool) (s : State) (p : Pending) :
    a.apply r (s.withPending p) = (a.apply r s).withPending p := by
  cases a with
  | emitIfFailed e => cases r <;> rfl
  | _ => rfl
theorem apply_withReplies (a : Act) (r : Bool) (s : State) (rs : List Reply) :
    a.apply r (s.withReplies rs) = (a.apply r s).withReplies rs := by
  cases a with
  | emitIfFailed e => cases r <;> rfl
  | _ => rfl
@[simp] theorem apply_replies (a : Act) (r : Bool) (s : State) : (a.apply r s).replies = s.replies := by
  cases a with
  | emitIfFailed e => cases r <;> rfl
  | _ => rfl

/-- Plain calls that are all answered only add their events. -/
theorem run_plain_calls (r : Bool) (es : List Event) (hp : ∀ e ∈ es, e.plain = true) (rest : List Act) :
    ∀ (s : State) (xs : List Answer) (replies : List Reply), xs.length = es.length →
      Answered s xs replies →
      run r (es.map Act.call ++ rest) s = run r rest { s with hist := s.hist ++ es, replies := replies } := by
  induction es with
  | nil =>
    intro s xs replies hl ha
    obtain rfl : xs = [] := List.length_eq_zero_iff.mp hl
    have : replies = s.replies := by simpa using ha.symm
    subst this
    simp
  | cons e es ih =>
    intro s xs replies hl ha
    match xs, hl with
    | x :: xs, hl =>
      have he : e.plain = true := hp e (by simp)
      have ha' : s.replies = .answer x :: (xs.map Reply.answer ++ replies) := ha
      rw [List.map_cons, List.cons_append, run_call_answered ha', useAnswer_plain he, answerR_plain he,
        ih (fun e' h => hp e' (by simp [h])) _ xs replies (by simpa using hl) rfl]
      simp [State.emit, State.withReplies]

theorem unloadActs_eq (p : Params) (d : Option Handle) : unloadActs p d = (unloadEvents p d).map Act.call := by
  cases d with
  | none => rfl
  | some d => simp only [unloadActs, unloadEvents, hook]; split <;> rfl
theorem loadActs_eq (p : Params) (d : Option Handle) : loadActs p d = (loadEvents p d).map Act.call := by
  cases d with
  | none => rfl
  | some d => simp only [loadActs, loadEvents, hook]; split <;> rfl
theorem deinitActs_eq (p : Params) (d : Option Handle) : deinitActs p d = (deinitEvents p d).map Act.call := by
  cases d with
  | none => rfl
  | some d => simp only [deinitActs, deinitEvents, hook]; split <;> rfl

theorem unloadEvents_plain (p : Params) (d : Option Handle) : ∀ e ∈ unloadEvents p d, e.plain = true := by
  cases d with
  | none => simp [unloadEvents]
  | some d => cases h : (capsOf p d).unload <;> simp [unloadEvents, h, Event.plain]
theorem loadEvents_plain (p : Params) (d : Option Handle) : ∀ e ∈ loadEvents p d, e.plain = true := by
  cases d with
  | none => simp [loadEvents]
  | some d => cases h : (capsOf p d).load <;> simp [loadEvents, h, Event.plain]
theorem deinitEvents_plain (p : Params) (d : Option Handle) : ∀ e ∈ deinitEvents p d, e.plain = true := by
  cases d with
  | none => simp [deinitEvents]
  | some d => cases h : (capsOf p d).deinit <;> simp [deinitEvents, h, Event.plain]

/-! ### Accepting a request -/

/-- A block that is ready performs the acts with nothing returned yet. -/
theorem perform_ready {s : State} (h : Ready s) (acts : List Act) : perform acts s = run true acts (s.withOut none) := by
  simp [perform, h.1, h.2]

theorem perform_destroyed {s : State} (h : s.ctx.alive = false) (acts : List Act) : perform acts s = .refused .destroyed := by
  simp [perform, h]

theorem perform_reentrant {s : State} (ha : s.ctx.alive = true) (h : s.pending ≠ .idle) (acts : List Act) :
    perform acts s = .refused .reentrant := by
  simp [perform, ha, h]

/-! ### What every run leaves alone, and how it waits -/

/-- A property that every act, every event and every used answer keeps is kept by a run: `P` of the start gives `P` of the
state it ends or is held in. -/
theorem run_keeps {P : State → Prop}
    (happly : ∀ (r : Bool) (a : Act) (s : State), P s → P (a.apply r s))
    (hemit : ∀ (s : State) (e : Event), P s → P (s.emit e))
    (hanswer : ∀ (s : State) (e : Event) (x : Answer) (rs : List Reply), P s → P ((s.withReplies rs).useAnswer e x))
    (hpending : ∀ (s : State) (p : Pending), P s → P (s.withPending p)) :
    ∀ (acts : List Act) (r : Bool) (s t : State), P s → run r acts s = .next t → P t := by
  intro acts
  induction acts with
  | nil =>
    intro r s t hs h
    obtain rfl : s.withPending .idle = t := by simpa using h
    exact hpending s _ hs
  | cons a acts ih =>
    intro r s t hs h
    rw [run] at h
    split at h
    · rename_i e _
      split at h
      · exact ih _ _ _ (hanswer _ e _ _ (hemit s e hs)) h
      · cases h
      · cases h
        exact hpending _ _ (hemit s e hs)
    · split at h
      · cases h
        exact hpending s _ hs
      · exact ih _ _ _ (happly r a s hs) h

/-- A run never looks at what was pending before it. -/
theorem run_withPending (p : Pending) : ∀ (acts : List Act) (r : Bool) (s : State),
    run r acts (s.withPending p) = run r acts s := by
  intro acts
  induction acts with
  | nil => intro r s; rfl
  | cons a acts ih =>
    intro r s
    rw [run, run]
    cases a.waitsOn r with
    | none =>
      simp only [apply_withPending, ih]
      rfl
    | some e =>
      simp only [State.withPending_replies]
      cases s.replies with
      | nil => rfl
      | cons y ys =>
        cases y with
        | answer x =>
          have : (((s.withPending p).emit e).withReplies ys).useAnswer e x =
              (((s.emit e).withReplies ys).useAnswer e x).withPending p := useAnswer_withPending ((s.emit e).withReplies ys) p e x
          simp only [this, ih]
        | request w => rfl

/-- Holding loses nothing (R41, R268): a request that was held for want of answers goes on, when more replies come, to just
what it would have done had they been there from the start. -/
theorem run_held_resumes : ∀ (acts : List Act) (xs : List Answer) (r : Bool) (s t : State) (more : List Reply),
    s.replies = xs.map Reply.answer → run r acts s = .next t → t.pending ≠ .idle → t.replies = [] ∧
    ∃ e r' acts', t.pending = .held e r' acts' ∧
      resume e r' acts' (t.withReplies more) = run r acts (s.withReplies (xs.map Reply.answer ++ more)) := by
  intro acts
  induction acts with
  | nil =>
    intro xs r s t more _ h ht
    obtain rfl : s.withPending .idle = t := by simpa using h
    exact absurd rfl ht
  | cons a acts ih =>
    intro xs r s t more hx h ht
    rw [run] at h
    rw [run]
    cases hw : a.waitsOn r with
    | some e =>
      simp only [hw, State.withReplies_replies] at h ⊢
      cases xs with
      | nil =>
        simp only [hx, List.map_nil] at h
        cases h
        refine ⟨by simpa using hx, e, r, acts, rfl, ?_⟩
        simp only [List.map_nil, List.nil_append, resume, State.withReplies_replies]
        cases more with
        | nil => rfl
        | cons y ys =>
          cases y with
          | request w => rfl
          | answer x =>
            have : (((((s.emit e).withPending (.held e r acts)).withReplies (.answer x :: ys)).withReplies ys).useAnswer e x) =
                ((((s.withReplies (.answer x :: ys)).emit e).withReplies ys).useAnswer e x).withPending (.held e r acts) :=
              useAnswer_withPending (((s.withReplies (.answer x :: ys)).emit e).withReplies ys) _ e x
            simp only [this, run_withPending]
      | cons x xs =>
        simp only [hx, List.map_cons, List.cons_append] at h ⊢
        obtain ⟨h0, e', r', acts', hp, hr⟩ := ih xs _ _ t more (by simp) h ht
        refine ⟨h0, e', r', acts', hp, hr.trans ?_⟩
        congr 1
        rw [← useAnswer_withReplies]
        rfl
    | none =>
      simp only [hw] at h ⊢
      split at h
      · cases h
        exact absurd rfl ht
      · rename_i hr
        obtain ⟨h0, e', r', acts', hp, hres⟩ := ih xs r _ t more (by simpa using hx) h ht
        refine ⟨h0, e', r', acts', hp, hres.trans ?_⟩
        rw [if_neg hr, apply_withReplies]

end Sys2Proof.Machine
end

