-- ==== Sys2Proof/Laws/Drivers.lean ====
section
/-! SUPPORT. What the steps that several Mode Controller requests share do when their calls are answered: re-derivation,
retiring and installing a driver, the quirk, the claim of a register write. -/

namespace Sys2Proof.Machine

open Sys2Proof

/-- The answers can be taken in two parts. -/
theorem answered_split {s : State} {xs : List Answer} {rest : List Reply} (n : Nat) (h : Answered s xs rest) :
    Answered s (xs.take n) ((xs.drop n).map .answer ++ rest) := by
  simp [Answered] at h ⊢; rw [h, ← List.append_assoc, List.take_append_drop]

/-- Re-derivation calls no hook whose answer matters. -/
theorem rederiveEvents_plain (p : Params) (c : SioContext) (old new : LinkMode) :
    ∀ e ∈ rederiveEvents p c old new, e.plain = true := by
  unfold rederiveEvents
  split
  · simp
  · intro e h
    rw [List.mem_append] at h
    rcases h with h | h
    · exact unloadEvents_plain _ _ e h
    · exact loadEvents_plain _ _ e h

/-- What `rederive()` does when its hooks are answered (R106). -/
theorem rederive_run (p : Params) (r : Bool) (old new : LinkMode) (c : SioContext) (rest : List Act) (s : State)
    (xs : List Answer) (replies : List Reply) (hl : xs.length = (rederiveEvents p c old new).length)
    (ha : Answered s xs replies) :
    run r (rederiveActs p c old new ++ rest) s = run r rest { s with
      ctx := { s.ctx with mode := new, activeDriver := if new = old then s.ctx.activeDriver else slotOf new }
      hist := s.hist ++ rederiveEvents p c old new
      replies := replies } := by
  unfold rederiveActs
  by_cases h : new = old
  · subst h
    simp [rederiveEvents] at hl
    subst hl
    simp [Answered] at ha
    simp [rederiveEvents, ← ha, State.withCtx]
  · simp only [if_neg h, List.cons_append, run_setMode]
    simp only [rederiveEvents, if_neg h, List.length_append] at hl
    rw [unloadActs_eq, loadActs_eq, List.append_assoc,
      run_plain_calls r _ (unloadEvents_plain _ _) _ _ (xs.take (unloadEvents p (c.lookup old)).length)
        ((xs.drop (unloadEvents p (c.lookup old)).length).map .answer ++ replies),
      List.cons_append, run_setActive, run_plain_calls r _ (loadEvents_plain _ _) _ _
        (xs.drop (unloadEvents p (c.lookup old)).length) replies]
    · simp [State.withCtx, rederiveEvents, h]
    · simp; omega
    · rfl
    · simp; omega
    · simp [Answered] at ha ⊢; rw [ha, ← List.append_assoc, List.take_append_drop]

/-- The forward of a RCNT write is a hook whose answer is discarded (R100). -/
theorem drvWriteEvents_plain (p : Params) (v : Word) (d : Option Handle) :
    ∀ e ∈ drvWriteEvents p .rcnt v d, e.plain = true := by
  cases d with
  | none => simp [drvWriteEvents]
  | some d => cases h : (capsOf p d).writeRegister <;> simp [drvWriteEvents, h, Event.plain]

/-- The lines of WRCNT: the merge, the re-derivation, the forward (R100). -/
theorem wrcntActs_eq (value : Word) (s : State) :
    let rcnt := mergeRcnt s.ctx.rcnt value
    let mode := deriveMode s.params rcnt s.ctx.siocnt
    wrcntActs value s = .setRcnt rcnt :: rederiveActs s.params s.ctx s.ctx.mode mode ++
      (drvWriteEvents s.params .rcnt value (s.ctx.lookup mode)).map Act.call := by
  unfold wrcntActs claimant
  dsimp only
  generalize s.ctx.lookup _ = d
  cases d with
  | none => rfl
  | some d =>
    cases h : (capsOf s.params d).writeRegister <;> simp [drvWriteEvents, h, Option.filter, forwardActs]

/-- The driver of the mode claims a write if it has the hook (R101). -/
theorem claimant_some {p : Params} {c : SioContext} {m : LinkMode} {d : Handle} (h : c.lookup m = some d)
    (h' : (capsOf p d).writeRegister = true) : claimant p c m = some d := by
  simp [claimant, h, h', Option.filter]

/-- No driver claims a write if the mode has none with the hook (R101). -/
theorem claimant_none {p : Params} {c : SioContext} {m : LinkMode}
    (h : ∀ d, c.lookup m = some d → (capsOf p d).writeRegister = false) : claimant p c m = none := by
  unfold claimant
  cases h' : c.lookup m with
  | none => rfl
  | some d => simp [Option.filter, h d h']

/-- What the quirk's lines do (R141). -/
theorem run_quirk (p : Params) (m : LinkMode) (v : Word) (r : Bool) (s : State) :
    run r (quirkActs p m v) s = .next { s with
      hist := s.hist ++ (if (quirk p m v).2 then [.raiseIrq p.emulator p.irqSio] else [])
      out := some (quirk p m v).1
      pending := .idle } := by
  unfold quirkActs
  cases (quirk p m v).2 <;> simp [State.withOut, State.withPending, State.emit]

/-- What retiring a slot's driver does when its hooks are answered (R110). -/
theorem retire_run (s0 : State) (k : Slot) (r : Bool) (rest : List Act) (s : State) (xs : List Answer) (rs : List Reply)
    (hl : xs.length = (retireEvents s0 k).length) (ha : Answered s xs rs) :
    run r (retireActs s0 k ++ rest) s = run r rest { s with hist := s.hist ++ retireEvents s0 k, replies := rs } := by
  have : retireActs s0 k = (retireEvents s0 k).map Act.call := by
    simp only [retireActs, retireEvents, slotActive, unloadActs_eq, deinitActs_eq, List.map_append]
    by_cases hk : slotOf s0.ctx.mode = some k <;> simp [hk]
  rw [this, run_plain_calls r _ _ _ _ xs rs hl ha]
  intro e he
  simp only [retireEvents, List.mem_append] at he
  rcases he with he | he
  · split at he
    · exact unloadEvents_plain _ _ _ he
    · simp at he
  · exact deinitEvents_plain _ _ _ he

/-- What putting a driver into a slot does when its load hook is answered (R110). -/
theorem install_run (s0 : State) (k : Slot) (d : Option Handle) (r : Bool) (s : State) (xs : List Answer) (rs : List Reply)
    (hl : xs.length = (if slotOf s0.ctx.mode = some k then loadEvents s0.params d else []).length) (ha : Answered s xs rs) :
    run r (installActs s0 k d) s = .next { s with
      ctx := { s.ctx.setSlot k d with
        activeDriver := if slotOf s0.ctx.mode = some k then some k else s.ctx.activeDriver }
      hist := s.hist ++ (if slotOf s0.ctx.mode = some k then loadEvents s0.params d else [])
      replies := rs
      pending := .idle } := by
  unfold installActs slotActive
  by_cases hk : slotOf s0.ctx.mode = some k
  · simp only [hk, if_true, beq_self_eq_true] at hl ⊢
    rw [run_setSlot, run_setActive, loadActs_eq, ← List.append_nil (List.map _ _),
      run_plain_calls r _ (loadEvents_plain _ _) _ _ xs rs hl ?hans]
    case hans => exact ha
    simp [State.withCtx, State.withPending]
  · simp [hk] at hl
    subst hl
    simp [Answered] at ha
    cases k <;> simp [hk, State.withCtx, SioContext.setSlot, State.withPending, ← ha]

end Sys2Proof.Machine
end

