-- ==== Sys2Proof/Laws/PerInstr.lean ====
section
/-! SUPPORT. The families of statements made once for each instruction. -/

namespace Sys2Proof.Laws

open Sys2Proof

/-- An instruction is written in requests: its encoding is not empty, and each of its words decodes to a request
(30_encoding.md R70). -/
def EncodesRequests.Statement (i : Instr) : Prop :=
  encode i ≠ [] ∧ ∀ w ∈ encode i, (decode w).isRequest = true

/-- One word, and what it decodes to. -/
theorem EncodesRequests.of_word {i j : Instr} {w : ReqWord} (h : encode i = [w]) (hd : decode w = j)
    (hj : j.isRequest = true) : EncodesRequests.Statement i := by
  refine ⟨by simp [h], fun x hx => ?_⟩
  obtain rfl : x = w := by simpa [h] using hx
  rw [hd, hj]

/-- The words that write bytes, at least one. -/
theorem EncodesRequests.of_bytes {i : Instr} {b : Byte} {bs : List Byte} (h : encode i = (b :: bs).map dataWord) :
    EncodesRequests.Statement i := by
  refine ⟨by simp [h], fun x hx => ?_⟩
  rw [h] at hx
  obtain ⟨b, _, rfl⟩ := List.mem_map.mp hx
  rw [decode_dataWord]
  rfl

theorem EncodesRequests.wrcnt (value : Word) : EncodesRequests.Statement (.wrcnt value) :=
  EncodesRequests.of_word (j := (.wrcnt value)) rfl (by simp [decode]) rfl
theorem EncodesRequests.wsiocnt (value : Word) : EncodesRequests.Statement (.wsiocnt value) :=
  EncodesRequests.of_word (j := (.wsiocnt value)) rfl (by simp [decode]) rfl
theorem EncodesRequests.wdata (value : Word) : EncodesRequests.Statement (.wdata value) :=
  EncodesRequests.of_word (j := (.wdata value)) rfl (by simp [decode]) rfl
theorem EncodesRequests.rdata : EncodesRequests.Statement .rdata := EncodesRequests.of_word rfl decode_readWord rfl
theorem EncodesRequests.wother (off value : Word) : EncodesRequests.Statement (.wother off value) :=
  EncodesRequests.of_word (j := (.wother off value)) rfl (by simp [decode]) rfl
theorem EncodesRequests.reset : EncodesRequests.Statement .reset :=
  EncodesRequests.of_word (j := .reset) rfl (by simp [decode]) rfl
theorem EncodesRequests.setdrv (code : BitVec 3) (handle : Handle) : EncodesRequests.Statement (.setdrv code handle) :=
  EncodesRequests.of_word (j := (.setdrv code handle)) rfl (by simp [decode]) rfl
theorem EncodesRequests.destroy : EncodesRequests.Statement .destroy :=
  EncodesRequests.of_word (j := .destroy) rfl (by simp [decode]) rfl
theorem EncodesRequests.reservedOp0 : EncodesRequests.Statement .reservedOp0 :=
  EncodesRequests.of_word (j := .reservedOp0) rfl (by simp [decode]) rfl
theorem EncodesRequests.reservedOp6 : EncodesRequests.Statement .reservedOp6 :=
  EncodesRequests.of_word (j := .reservedOp6) rfl (by simp [decode]) rfl
theorem EncodesRequests.reservedOp7 : EncodesRequests.Statement .reservedOp7 :=
  EncodesRequests.of_word (j := .reservedOp7) rfl (by simp [decode]) rfl
theorem EncodesRequests.reservedOpB : EncodesRequests.Statement .reservedOpB :=
  EncodesRequests.of_word (j := .reservedOpB) rfl (by simp [decode]) rfl
theorem EncodesRequests.reservedOpC : EncodesRequests.Statement .reservedOpC :=
  EncodesRequests.of_word (j := .reservedOpC) rfl (by simp [decode]) rfl
theorem EncodesRequests.reservedOpD : EncodesRequests.Statement .reservedOpD :=
  EncodesRequests.of_word (j := .reservedOpD) rfl (by simp [decode]) rfl
theorem EncodesRequests.reservedOpE : EncodesRequests.Statement .reservedOpE :=
  EncodesRequests.of_word (j := .reservedOpE) rfl (by simp [decode]) rfl
theorem EncodesRequests.reservedOpF : EncodesRequests.Statement .reservedOpF :=
  EncodesRequests.of_word (j := .reservedOpF) rfl (by simp [decode]) rfl
theorem EncodesRequests.wdataStart : EncodesRequests.Statement .wdataStart :=
  EncodesRequests.of_word rfl (decode_dataWord _) rfl
theorem EncodesRequests.wdataIdleIgn (b : Byte) : EncodesRequests.Statement (.wdataIdleIgn b) :=
  EncodesRequests.of_word rfl (decode_dataWord _) rfl
theorem EncodesRequests.wdataCancel00 : EncodesRequests.Statement .wdataCancel00 :=
  EncodesRequests.of_word rfl (decode_dataWord _) rfl
theorem EncodesRequests.wdataCancel01 : EncodesRequests.Statement .wdataCancel01 :=
  EncodesRequests.of_word rfl (decode_dataWord _) rfl
theorem EncodesRequests.wdataCancelFE : EncodesRequests.Statement .wdataCancelFE :=
  EncodesRequests.of_word rfl (decode_dataWord _) rfl
theorem EncodesRequests.wdataCancelFF : EncodesRequests.Statement .wdataCancelFF :=
  EncodesRequests.of_word rfl (decode_dataWord _) rfl
theorem EncodesRequests.wdataCmdSend : EncodesRequests.Statement .wdataCmdSend :=
  EncodesRequests.of_word rfl (decode_dataWord _) rfl
theorem EncodesRequests.wdataCmdRecv : EncodesRequests.Statement .wdataCmdRecv :=
  EncodesRequests.of_word rfl (decode_dataWord _) rfl
theorem EncodesRequests.wdataCmdDuplex : EncodesRequests.Statement .wdataCmdDuplex :=
  EncodesRequests.of_word rfl (decode_dataWord _) rfl
theorem EncodesRequests.wdataCmdConnect : EncodesRequests.Statement .wdataCmdConnect :=
  EncodesRequests.of_word rfl (decode_dataWord _) rfl
theorem EncodesRequests.wdataCmdDisconnect : EncodesRequests.Statement .wdataCmdDisconnect :=
  EncodesRequests.of_word rfl (decode_dataWord _) rfl
theorem EncodesRequests.wdataCmdDns : EncodesRequests.Statement .wdataCmdDns :=
  EncodesRequests.of_word rfl (decode_dataWord _) rfl
theorem EncodesRequests.wdataCodeDrop (b : Byte) : EncodesRequests.Statement (.wdataCodeDrop b) :=
  EncodesRequests.of_word rfl (decode_dataWord _) rfl
theorem EncodesRequests.wdataTerm : EncodesRequests.Statement .wdataTerm :=
  EncodesRequests.of_word rfl (decode_dataWord _) rfl
theorem EncodesRequests.wdataAppend (b : Byte) : EncodesRequests.Statement (.wdataAppend b) :=
  EncodesRequests.of_word rfl (decode_dataWord _) rfl
theorem EncodesRequests.wdataOverflow (b : Byte) : EncodesRequests.Statement (.wdataOverflow b) :=
  EncodesRequests.of_word rfl (decode_dataWord _) rfl
theorem EncodesRequests.wdataPayloadOut (b : Byte) : EncodesRequests.Statement (.wdataPayloadOut b) :=
  EncodesRequests.of_word rfl (decode_dataWord _) rfl
theorem EncodesRequests.wdataDuplexOut (b : Byte) : EncodesRequests.Statement (.wdataDuplexOut b) :=
  EncodesRequests.of_word rfl (decode_dataWord _) rfl
theorem EncodesRequests.wdataXferIgn (b : Byte) : EncodesRequests.Statement (.wdataXferIgn b) :=
  EncodesRequests.of_word rfl (decode_dataWord _) rfl
theorem EncodesRequests.rdataReadNodata : EncodesRequests.Statement .rdataReadNodata :=
  EncodesRequests.of_word rfl decode_readWord rfl
theorem EncodesRequests.rdataPayloadIn : EncodesRequests.Statement .rdataPayloadIn :=
  EncodesRequests.of_word rfl decode_readWord rfl
theorem EncodesRequests.rdataDuplexIn : EncodesRequests.Statement .rdataDuplexIn :=
  EncodesRequests.of_word rfl decode_readWord rfl
theorem EncodesRequests.rdataReadEstab : EncodesRequests.Statement .rdataReadEstab :=
  EncodesRequests.of_word rfl decode_readWord rfl
theorem EncodesRequests.cmdSend (payload : List Byte) : EncodesRequests.Statement (.cmdSend payload) :=
  EncodesRequests.of_bytes rfl
theorem EncodesRequests.cmdRecv (payload : List Byte) : EncodesRequests.Statement (.cmdRecv payload) :=
  EncodesRequests.of_bytes rfl
theorem EncodesRequests.cmdDuplex (payload : List Byte) : EncodesRequests.Statement (.cmdDuplex payload) :=
  EncodesRequests.of_bytes rfl
theorem EncodesRequests.cmdConnect (payload : List Byte) : EncodesRequests.Statement (.cmdConnect payload) :=
  EncodesRequests.of_bytes rfl
theorem EncodesRequests.cmdDisconnect (payload : List Byte) : EncodesRequests.Statement (.cmdDisconnect payload) :=
  EncodesRequests.of_bytes rfl
theorem EncodesRequests.cmdDns (payload : List Byte) : EncodesRequests.Statement (.cmdDns payload) :=
  EncodesRequests.of_bytes rfl

end Sys2Proof.Laws
end

