-- ==== Sys2Proof/Laws/Rows.lean ====
section
/-! SUPPORT. The rows of the data register's tables as meanings, and what a data register request leaves alone. -/

namespace Sys2Proof.Machine

open Sys2Proof

/-- The byte a row of the write table is about; none where the row leaves it open (R74). -/
def rowByte : WriteRow → Option Byte
  | .start => some 0x89
  | .idleIgn => none
  | .cancel00 => some 0x00
  | .cancel01 => some 0x01
  | .cancelFE => some 0xFE
  | .cancelFF => some 0xFF
  | .cmdSend => some 0x02
  | .cmdRecv => some 0x03
  | .cmdDuplex => some 0x04
  | .cmdConnect => some 0x05
  | .cmdDisconnect => some 0x06
  | .cmdDns => some 0x07
  | .codeDrop => none
  | .term => some 0xFE
  | .append => none
  | .overflow => none
  | .payloadOut => none
  | .duplexOut => none
  | .xferIgn => none

/-- A first byte takes a row that is about it, or about no one byte. -/
theorem firstByteRow_byte : ∀ b, rowByte (firstByteRow b) = none ∨ rowByte (firstByteRow b) = some b := by decide

/-- A byte takes a row that is about it, or about no one byte. -/
theorem writeRow_byte (t : TMode) (n : Nat) (b : Byte) :
    rowByte (writeRow t n b) = none ∨ rowByte (writeRow t n b) = some b := by
  cases t <;> simp only [writeRow] <;> (repeat' split) <;>
    first | exact .inl rfl | exact firstByteRow_byte b | (subst_vars; exact .inr rfl)

/-- A row with the byte it is about does what the row's table entry says. -/
theorem exec_row {row : WriteRow} {b : Byte} (h : rowByte row = none ∨ rowByte row = some b) (s : State) :
    exec (row.instr b) s = performWriteRow row b (writeRowActs row b s) s := by
  cases row <;> simp only [rowByte, reduceCtorEq, false_or, Option.some.injEq] at h <;> first | rfl | (subst h; rfl)

/-- A row that the state selects is its own lines. -/
theorem row_selected {s : State} {b : Byte} {row : WriteRow} (h : selectWrite s b = row) (acts : List Act) :
    performWriteRow row b acts s = perform acts s := by simp [performWriteRow, h]

/-- A read row that the state selects is its own lines. -/
theorem readRow_selected {s : State} {row : ReadRow} (h : selectRead s = row) (acts : List Act) :
    performReadRow row acts s = perform acts s := by
  simp [performReadRow, h]

/-- The bytes 0x08 to 0xFD where the code is due are dropped (R165). -/
theorem codeDrop_of : ∀ b : Byte, 0x08 ≤ b → b ≤ 0xFD → firstByteRow b = .codeDrop := by decide

/-- A stored command dispatches to its own lines (R190). -/
theorem dispatch_eq {c : Command} {ps : List Byte} {s : State} (hb : s.relay.buf = c.code :: ps) :
    dispatchActs s = .setTmode .idle :: commandActs c s := by
  simp [dispatchActs, hb, bufByte]

/-- A frame is the DATA writes of its bytes (R76). -/
theorem frame_exec (c : Command) (ps : List Byte) (s : State) : exec (c.instr ps) s = writeBytes (frameBytes c ps) s := by
  cases c <;> rfl

/-- A frame's request words are the DATA writes of its bytes. -/
theorem frame_encode (c : Command) (ps : List Byte) : encode (c.instr ps) = (frameBytes c ps).map dataWord := by
  cases c <;> rfl

/-- A byte whose DATA write completes, and the bytes after it. -/
theorem writeBytes_cons {b : Byte} {bs : List Byte} {s t : State} (h : exec (.wdata (zext16 b)) s = .next t)
    (ht : t.pending = .idle) : writeBytes (b :: bs) s = writeBytes bs t := by
  have : perform (dataWriteActs b s) s = .next t := by
    have h' : perform (dataWriteActs (lowByte (zext16 b)) s) s = .next t := h
    rwa [lowByte_zext16] at h'
  simp [writeBytes, this, ht]

/-- The last byte is a DATA write. -/
theorem writeBytes_last (b : Byte) (s : State) : writeBytes [b] s = exec (.wdata (zext16 b)) s := by
  have : exec (.wdata (zext16 b)) s = perform (dataWriteActs b s) s := by
    show perform (dataWriteActs (lowByte (zext16 b)) s) s = _
    rw [lowByte_zext16]
  rw [this]
  cases hp : perform (dataWriteActs b s) s with
  | next t => simp [writeBytes, hp, State.withPort]
  | fault f => simp [writeBytes, hp]
  | refused f => simp [writeBytes, hp]

/-- A run leaves the port alone. -/
theorem run_port (acts : List Act) (r : Bool) (s t : State) (h : run r acts s = .next t) : t.port = s.port := by
  refine run_keeps (P := fun t => t.port = s.port) ?_ ?_ ?_ ?_ acts r s t rfl h
  · intro r a s' hs
    cases a with
    | emitIfFailed e => cases r <;> exact hs
    | _ => exact hs
  · intro s' e hs; exact hs
  · intro s' e x rs hs
    cases e with
    | drvWrite d reg v => cases reg <;> exact hs
    | sockConnect _ _ => simp only [State.useAnswer, State.useConnect]; split <;> exact hs
    | _ => exact hs
  · intro s' p hs; exact hs

/-- An answer leaves the SIOContext alone. -/
theorem useAnswer_ctx (s : State) (e : Event) (x : Answer) : (s.useAnswer e x).ctx = s.ctx := by
  cases e with
  | drvWrite d reg v => cases reg <;> rfl
  | sockConnect _ _ => simp only [State.useAnswer, State.useConnect]; split <;> rfl
  | _ => rfl

/-- An answer leaves the history, the parameters and the out length alone. -/
theorem useAnswer_hist (s : State) (e : Event) (x : Answer) : (s.useAnswer e x).hist = s.hist ∧
    (s.useAnswer e x).params = s.params ∧ (s.useAnswer e x).relay.outLength = s.relay.outLength := by
  cases e with
  | drvWrite d reg v => cases reg <;> exact ⟨rfl, rfl, rfl⟩
  | sockConnect _ _ => simp only [State.useAnswer, State.useConnect]; split <;> exact ⟨rfl, rfl, rfl⟩
  | _ => exact ⟨rfl, rfl, rfl⟩

/-- An answer never lowers the count of connects. -/
theorem useAnswer_connects_le (s : State) (e : Event) (x : Answer) : s.connects ≤ (s.useAnswer e x).connects := by
  cases e with
  | drvWrite d reg v => cases reg <;> exact le_rfl
  | sockConnect _ _ =>
    obtain ⟨_, h⟩ | ⟨_, h⟩ := useConnect_cases s x
    · exact (congrArg State.connects h).ge
    · exact (Nat.le_succ _).trans (congrArg State.connects h).ge
  | _ => exact le_rfl

/-- A run whose agents only answer is refused nowhere. -/
theorem run_next : ∀ (acts : List Act) (r : Bool) (s : State), OnlyAnswers s →
    ∃ t, run r acts s = .next t ∧ OnlyAnswers t := by
  intro acts
  induction acts with
  | nil => intro r s h; exact ⟨_, rfl, h⟩
  | cons a acts ih =>
    intro r s h
    rw [run]
    split
    · split
      · rename_i x replies hr
        refine ih _ _ ?_
        intro y hy
        exact h y (by rw [hr]; exact List.mem_cons_of_mem _ (by simpa using hy))
      · rename_i w _ hr
        obtain ⟨a, ha⟩ := h (.request w) (by simp [hr])
        cases ha
      · exact ⟨_, rfl, h⟩
    · split
      · exact ⟨_, rfl, h⟩
      · refine ih _ _ ?_
        intro y hy; exact h y (by simpa using hy)

end Sys2Proof.Machine
end

