-- ==== Sys2Proof/Machine/Interface.lean ====
section
/-! DEFINITION. How the outside reaches the block: the register classes of 20_memory.md R51 to R53, the host's address
decoder (REG_ADDR, R52), and the two kinds of caller (60_exceptions.md R258). The block itself sees requests only: nothing
here is read by a step (log 19). -/

namespace Sys2Proof.Machine

open Sys2Proof

/-- The register classes of the register interface (R51). -/
inductive RegClass where
  | rcnt
  | siocnt
  | data
  | other (off : Word)
deriving DecidableEq, Repr

/-- REG_ADDR: the bus offsets of the three named registers, and which offsets are OTHER (R7, R52, R140). All of it is the
host's to choose. -/
structure RegAddr where
  rcnt : Word
  siocnt : Word
  data : Word
  others : List Word
deriving DecidableEq, Repr

/-- The class of a bus offset: one of the three named registers, or OTHER where the host's decoder says so; none for an
offset whose accesses do not reach the block (R52, R140). -/
def RegAddr.classify (m : RegAddr) (off : Word) : Option RegClass :=
  if off = m.rcnt then some .rcnt
  else if off = m.siocnt then some .siocnt
  else if off = m.data then some .data
  else if m.others.contains off then some (.other off)
  else none

/-- The request a 16-bit write of a register makes (R51). -/
def RegClass.writeRequest (value : Word) : RegClass → Instr
  | .rcnt => .wrcnt value
  | .siocnt => .wsiocnt value
  | .data => .wdata value
  | .other off => .wother off value

/-- The request a read of a register makes: only DATA is read at the block (R53). -/
def RegClass.readRequest : RegClass → Option Instr
  | .rcnt => none
  | .siocnt => none
  | .data => some .rdata
  | .other _ => none

/-- Who issues a request (R258). -/
inductive Caller where
  | guest | host
deriving DecidableEq, Repr

/-- The caller a request kind is for; the block does not check it (R70, R258). -/
def callerOf : Instr → Option Caller
  | .wrcnt _ => some .guest
  | .wsiocnt _ => some .guest
  | .wdata _ => some .guest
  | .rdata => some .guest
  | .wother _ _ => some .guest
  | .reset => some .host
  | .setdrv _ _ => some .host
  | .destroy => some .host
  | _ => none

end Sys2Proof.Machine
end

