-- ==== Sys2Proof/Tests/Slice0.lean ====
section
/-! SUPPORT. Tests of one instruction on a small state, and the witnesses that the statements' hypotheses can be met. The
expected values are those of spec/95_test_vectors.md (the vector is named), of the tables of 30_encoding.md, or worked out
by hand from the rule named. -/

namespace Sys2Proof.Tests

open Sys2Proof Sys2Proof.Machine

/-! ### States -/

/-- Hooks of a driver. -/
def hooks (init deinit load unload writeRegister : Bool) : Caps := ⟨init, deinit, load, unload, writeRegister⟩

/-- The default parameters (95_test_vectors.md 0) with values for the open ones, and these drivers: 1 and 2 have every hook,
3 none, 4 load and unload, 5 init and deinit. -/
def params : Params :=
  { defaultParams with
    noData := 0xDEAD, connectPort := 0x0C45, irqSio := 7, emulator := 1
    caps := [(1, hooks true true true true true), (2, hooks true true true true true),
      (3, hooks false false false false false), (4, hooks false false true true false),
      (5, hooks true true false false false)] }

/-- C0, the state right after construction. -/
def c0 : State := { State.reset with params := params }

/-- C0 with the two control registers and the mode they give. -/
def inMode (rcnt siocnt : Word) : State :=
  { c0 with ctx := { c0.ctx with
      rcnt := rcnt, siocnt := siocnt, mode := deriveMode params rcnt siocnt
      activeDriver := slotOf (deriveMode params rcnt siocnt) } }

/-- With a driver in a slot. -/
def drv (k : Slot) (d : Handle) (s : State) : State := { s with ctx := s.ctx.setSlot k (some d) }

/-- With `n` answers that say ok. -/
def oks (n : Nat) (s : State) : State := { s with replies := List.replicate n (.answer {}) }

/-- With the answers given. -/
def answers (xs : List Answer) (s : State) : State := { s with replies := xs.map Reply.answer }

/-- C0 in a transfer mode with a command buffer. -/
def inRelay (t : TMode) (buf : List Byte) : State := { c0 with relay := { c0.relay with tmode := t, buf := buf } }

/-- With an open socket and a transfer length. -/
def opened (length : Word) (s : State) : State := { s with relay := { s.relay with sock := some ⟨0, 7⟩, length := length }, connects := 1 }

/-- A function of the next state; none for a fault or a refusal. -/
def after {β : Type} (f : State → β) : Host.Outcome State Fault Refusal → Option β
  | .next s => some (f s)
  | .fault _ => none
  | .refused _ => none

/-- The reason of a refusal. -/
def refusal : Host.Outcome State Fault Refusal → Option Refusal
  | .next _ => none
  | .fault _ => none
  | .refused r => some r

/-- The control registers, the mode and the events. -/
abbrev sioView (s : State) : Word × Word × LinkMode × List Event := (s.ctx.rcnt, s.ctx.siocnt, s.ctx.mode, s.hist)

/-- The transfer mode, the buffer and the events. -/
abbrev relayView (s : State) : TMode × List Byte × List Event := (s.relay.tmode, s.relay.buf, s.hist)

/-! ### Ill-formed operands, which WellFormed refuses (30_encoding.md R74, R76) -/

theorem test_wellFormed_idle_ign : (Instr.wdataIdleIgn 0x89).wellFormed = false := by decide
theorem test_wellFormed_code_drop : (Instr.wdataCodeDrop 0x07).wellFormed = false ∧
    (Instr.wdataCodeDrop 0xFE).wellFormed = false := by decide
theorem test_wellFormed_append : (Instr.wdataAppend 0xFE).wellFormed = false := by decide
theorem test_wellFormed_overflow : (Instr.wdataOverflow 0xFE).wellFormed = false := by decide
theorem test_wellFormed_frame_terminator : (Instr.cmdSend [0x01, 0xFE]).wellFormed = false ∧
    (Instr.cmdRecv [0xFE]).wellFormed = false ∧ (Instr.cmdDuplex [0xFE]).wellFormed = false ∧
    (Instr.cmdConnect [0xFE]).wellFormed = false ∧ (Instr.cmdDisconnect [0xFE]).wellFormed = false ∧
    (Instr.cmdDns [0xFE]).wellFormed = false := by decide
theorem test_wellFormed_frame_length : (Instr.cmdSend (List.replicate 255 0x00)).wellFormed = false ∧
    (Instr.cmdSend (List.replicate 254 0x00)).wellFormed = true := by decide +kernel

/-! ### Decoding, the words written out from the spec -/

/-- 95_test_vectors.md 2.1, and the op values of 30_encoding.md R70. -/
theorem test_decode_requests :
    decode 0x100008000 = .wrcnt 0x8000 ∧ decode 0x200004081 = .wsiocnt 0x4081 ∧ decode 0x300001289 = .wdata 0x1289 ∧
    decode 0x400000000 = .rdata ∧ decode 0x501400007 = .wother 0x0140 0x0007 ∧ decode 0x800000000 = .reset ∧
    decode 0x900000000 = .setdrv 0 0 ∧ decode 0x900040005 = .setdrv 4 5 ∧ decode 0x9FFFB0001 = .setdrv 3 1 ∧
    decode 0xA00000000 = .destroy := by decide

/-- The reserved op values (R71), with every other bit set. -/
theorem test_decode_reserved :
    decode 0x0FFFFFFFF = .reservedOp0 ∧ decode 0x6FFFFFFFF = .reservedOp6 ∧ decode 0x7FFFFFFFF = .reservedOp7 ∧
    decode 0xBFFFFFFFF = .reservedOpB ∧ decode 0xCFFFFFFFF = .reservedOpC ∧ decode 0xDFFFFFFFF = .reservedOpD ∧
    decode 0xEFFFFFFFF = .reservedOpE ∧ decode 0xFFFFFFFFF = .reservedOpF := by decide

/-- A number of more than 36 bits is no request (R70). -/
theorem test_decode_too_wide : decodeTableWord 36 0x1000000000 = none ∧ decodeTableWord 36 0xA00000000 = some .destroy := by
  decide

/-- The framer rows of 30_encoding.md R74; the high byte is ignored. -/
theorem test_decode_framer_rows :
    decodeAt .idle 9 0x300000189 = .wdataStart ∧ decodeAt .idle 0 0x3000000FE = .wdataIdleIgn 0xFE ∧
    decodeAt .parse 0 0x300000000 = .wdataCancel00 ∧ decodeAt .parse 0 0x300000001 = .wdataCancel01 ∧
    decodeAt .parse 0 0x3000000FE = .wdataCancelFE ∧ decodeAt .parse 0 0x3000000FF = .wdataCancelFF ∧
    decodeAt .parse 0 0x300000002 = .wdataCmdSend ∧ decodeAt .parse 0 0x300000003 = .wdataCmdRecv ∧
    decodeAt .parse 0 0x300000004 = .wdataCmdDuplex ∧ decodeAt .parse 0 0x300000005 = .wdataCmdConnect ∧
    decodeAt .parse 0 0x300000006 = .wdataCmdDisconnect ∧ decodeAt .parse 0 0x300000007 = .wdataCmdDns ∧
    decodeAt .parse 0 0x300000008 = .wdataCodeDrop 0x08 ∧ decodeAt .parse 0 0x3000000FD = .wdataCodeDrop 0xFD ∧
    decodeAt .parse 1 0x3000000FE = .wdataTerm ∧ decodeAt .parse 254 0x300000041 = .wdataAppend 0x41 ∧
    decodeAt .parse 255 0x300000041 = .wdataOverflow 0x41 := by decide

/-- The transfer rows of 30_encoding.md R74 and R75. -/
theorem test_decode_transfer_rows :
    decodeAt .send 0 0x300000089 = .wdataPayloadOut 0x89 ∧ decodeAt .sendRecv 0 0x300000010 = .wdataDuplexOut 0x10 ∧
    decodeAt .recv 0 0x300000089 = .wdataXferIgn 0x89 ∧ decodeAt .estab 0 0x300000089 = .wdataXferIgn 0x89 ∧
    decodeAt .reserved 0 0x300000089 = .wdataXferIgn 0x89 ∧ decodeAt .idle 0 0x400000000 = .rdataReadNodata ∧
    decodeAt .recv 0 0x400000000 = .rdataPayloadIn ∧ decodeAt .sendRecv 0 0x400000000 = .rdataDuplexIn ∧
    decodeAt .estab 0 0x400000000 = .rdataReadEstab := by decide

/-- One frame of each command (30_encoding.md R76, R78); a byte 0x09 before the code is dropped, and a byte after the
terminator is left. -/
theorem test_decode_frames :
    decodeFrame [0x89, 0x02, 0x11, 0xFE] = .ok (.cmdSend [0x11], []) ∧
    decodeFrame [0x89, 0x09, 0x03, 0xFE] = .ok (.cmdRecv [], []) ∧
    decodeFrame [0x89, 0x04, 0x89, 0xFE, 0x55] = .ok (.cmdDuplex [0x89], [0x55]) ∧
    decodeFrame [0x89, 0x05, 0x01, 0x00, 0xFE] = .ok (.cmdConnect [0x01, 0x00], []) ∧
    decodeFrame [0x89, 0x06, 0xFE] = .ok (.cmdDisconnect [], []) ∧
    decodeFrame [0x89, 0x07, 0xFE] = .ok (.cmdDns [], []) := by decide

/-- What begins no frame is rejected by name (R161, R164, R167, R82). -/
theorem test_decode_frame_rejects :
    decodeFrame [0x05] = .error .noStart ∧ decodeFrame [0x89, 0xFF, 0x02] = .error .cancelled ∧
    decodeFrame [0x89, 0x02, 0x41] = .error .unterminated ∧
    decodeFrame (0x89 :: 0x02 :: List.replicate 255 0x41) = .error .overflow := by decide +kernel

/-- P1's words #1 to #9, from its pseudo-request `CCONNECT 0x7F000001, 3141` (R84). -/
theorem test_encode_connect : encode (.cmdConnect (fieldPayload 0x7F000001 3141)) =
    [0x300000089, 0x300000005, 0x300000001, 0x300000000, 0x300000000, 0x30000007F, 0x300000045, 0x30000000C,
      0x3000000FE] := by decide

/-- A pseudo-request whose field holds 0xFE must be rejected (R84). -/
theorem test_pseudo_rejects : csend 0x000000FE 1 = none ∧ crecv = some [.wdata 0x89, .wdata 0x03, .wdata 0xFE] := by decide

/-- The register classes (20_memory.md R51 to R53). -/
theorem test_classify :
    let m : RegAddr := { rcnt := 0x134, siocnt := 0x128, data := 0x12A, others := [0x140] }
    m.classify 0x128 = some .siocnt ∧ m.classify 0x140 = some (.other 0x140) ∧ m.classify 0x142 = none ∧
      (m.classify 0x12A).map (·.writeRequest 5) = some (.wdata 5) ∧ RegClass.siocnt.readRequest = none := by decide

/-! ### Control registers -/

/-- The table of 40_mode_controller.md R104. -/
theorem test_mode_map : (List.range 16).map (fun i => modeMap params (BitVec.ofNat 4 i)) =
    [.normal8, .normal32, .normal8, .normal32, .normal8, .normal32, .normal8, .normal32,
      .multiplayer, .multiplayer, .multiplayer, .multiplayer, .joybus, .joybus, .joybus, .joybus] := by decide

/-- RC2. -/
theorem test_wrcnt_keeps_low_bits :
    after sioView (exec (.wrcnt 0xC00F) c0) = some (0xC000, 0x0000, .joybus, []) := by decide

/-- RC4 (driver 4 has load and unload, driver 2 here also writeRegister: a hook call more than RC4). -/
theorem test_wrcnt_switches_drivers :
    after sioView (exec (.wrcnt 0x8000) (oks 3 (drv .normal 4 (drv .multiplayer 2 (inMode 0 0))))) =
      some (0x8000, 0x0000, .multiplayer, [.unload 4, .load 2, .drvWrite 2 .rcnt 0x8000]) := by decide

/-- SC1. -/
theorem test_wsiocnt_raises :
    after (fun s => (s.out, sioView s)) (exec (.wsiocnt 0x4081) (inMode 0 0)) =
      some (some 0x4005, 0x0000, 0x0000, .normal8, [.raiseIrq 1 7]) := by decide

/-- SC7: the driver's answer is the value, and no interrupt is raised. -/
theorem test_wsiocnt_forwards :
    after (fun s => (s.out, s.hist)) (exec (.wsiocnt 0x4081) (answers [{ value := 0x1234 }] (drv .normal 1 (inMode 0 0)))) =
      some (some 0x1234, [.drvWrite 1 .siocnt 0x4081]) := by decide

/-- SC2, SC3, SC4, SC5, SC6, SC9, SC10. -/
theorem test_quirk : quirk params .normal8 0x0080 = (0x0084, false) ∧ quirk params .normal8 0x0081 = (0x0005, false) ∧
    quirk params .normal32 0x1081 = (0x1005, false) ∧ quirk params .multiplayer 0x20FF = (0x208F, false) ∧
    quirk params .joybus 0xABCD = (0xABCD, false) ∧ quirk params .normal32 0x1FFF = (0x1F7F, false) ∧
    quirk params .multiplayer 0x0000 = (0x000C, false) := by decide

/-- WO2. -/
theorem test_wother_forwards :
    after (fun s => (s.out, s.hist))
        (exec (.wother 0x120 0xBEEF) (answers [{ value := 0x00FF }] (drv .multiplayer 2 c0))) =
      some (some 0x00FF, [.drvWrite 2 (.other 0x120) 0xBEEF]) := by decide

/-- WO3: the driver of another mode does not claim the write. -/
theorem test_wother_passes : after (fun s => (s.out, s.hist)) (exec (.wother 0x120 0xBEEF) (drv .multiplayer 2 (inMode 0 0))) =
    some (some 0xBEEF, []) := by decide

/-! ### Drivers, reset, teardown -/

/-- SD4 (driver 1 replaces driver 2). -/
theorem test_setdrv_replaces :
    after (fun s => (s.ctx.slotMultiplayer, s.hist)) (exec (.setdrv 2 1) (oks 4 (drv .multiplayer 2 c0))) =
      some (some 1, [.unload 2, .deinit 2, .attach 1, .init 1, .load 1]) := by decide

/-- SD5: a failed init leaves the old driver in its slot. -/
theorem test_setdrv_init_fails :
    after (fun s => (s.ctx.slotMultiplayer, s.hist))
        (exec (.setdrv 2 5) (answers [{}, {}, { ok := false }, {}] (drv .multiplayer 2 c0))) =
      some (some 2, [.unload 2, .deinit 2, .attach 5, .init 5, .deinit 5, .log .initFailed]) := by decide

/-- RS1 (with driver 4 in both slots). -/
theorem test_reset_rederives :
    after sioView (exec .reset (oks 2 (drv .normal 4 (drv .multiplayer 4 (inMode 0x0010 0x1000))))) =
      some (0x8000, 0x0000, .multiplayer, [.unload 4, .load 4]) := by decide

/-- RS3: the relay is left alone. -/
theorem test_reset_leaves_relay : after relayView (exec .reset (inRelay .parse [0x02, 0x00, 0x00])) =
    some (.parse, [0x02, 0x00, 0x00], []) := by decide

/-- DE1 (driver 5 has only init and deinit, driver 2 every hook). -/
theorem test_destroy_order :
    after (fun s => (s.ctx.alive, s.relay.sock, s.hist))
        (exec .destroy (oks 5 (opened 0 (drv .normal 5 (drv .multiplayer 2 (drv .joybus 5 c0)))))) =
      some (false, none, [.unload 2, .deinit 5, .deinit 2, .deinit 5, .sockClose ⟨0, 7⟩]) := by decide

/-- DE3: after DESTROY every request is refused; a reserved kind by its own name. -/
theorem test_destroyed_refuses :
    let dead := { c0 with ctx := { c0.ctx with alive := false } }
    refusal (exec .rdata dead) = some .destroyed ∧ refusal (exec .reset dead) = some .destroyed ∧
      refusal (exec .reservedOp7 dead) = some (.reservedOp 0x7) := by decide

/-- 2.1: op 0x6 and op 0xF are refused. -/
theorem test_reserved_refused : refusal (exec (decode 0x600000000) c0) = some (.reservedOp 0x6) ∧
    refusal (exec (decode 0xF12345678) c0) = some (.reservedOp 0xF) := by decide

/-! ### The framer -/

/-- FR1. -/
theorem test_start : after relayView (exec .wdataStart (inRelay .idle (List.replicate 9 0))) = some (.parse, [], []) := by decide

/-- FR3 and FR2, by the request. -/
theorem test_wdata_idle : after relayView (exec (.wdata 0x0189) c0) = some (.parse, [], []) ∧
    after relayView (exec (.wdata 0x00FE) c0) = some (.idle, [], []) := by decide

/-- FR2. -/
theorem test_idle_ign : after relayView (exec (.wdataIdleIgn 0xFF) (inRelay .idle [0x02])) = some (.idle, [0x02], []) := by decide

/-- FR4. -/
theorem test_cancel : after relayView (exec .wdataCancel00 (inRelay .parse [])) = some (.idle, [], []) ∧
    after relayView (exec .wdataCancel01 (inRelay .parse [])) = some (.idle, [], []) ∧
    after relayView (exec .wdataCancelFE (inRelay .parse [])) = some (.idle, [], []) ∧
    after relayView (exec .wdataCancelFF (inRelay .parse [])) = some (.idle, [], []) := by decide

/-- FR5. -/
theorem test_codes :
    [Instr.wdataCmdSend, .wdataCmdRecv, .wdataCmdDuplex, .wdataCmdConnect, .wdataCmdDisconnect, .wdataCmdDns].map
        (fun i => after (fun s => s.relay.buf) (exec i (inRelay .parse []))) =
      [some [0x02], some [0x03], some [0x04], some [0x05], some [0x06], some [0x07]] := by decide

/-- FR6: 0x89 where the code is due does not start again. -/
theorem test_code_drop : after relayView (exec (.wdataCodeDrop 0x89) (inRelay .parse [])) = some (.parse, [], []) := by decide

/-- FR7, FR9. -/
theorem test_append : after relayView (exec (.wdataAppend 0x89) (inRelay .parse [0x07])) = some (.parse, [0x07, 0x89], []) ∧
    after (fun s => s.relay.cursor) (exec (.wdataAppend 0x41) (inRelay .parse (List.replicate 254 0x02))) = some 255 := by
  decide +kernel

/-- FR10. -/
theorem test_overflow : after relayView (exec (.wdataOverflow 0x41) (inRelay .parse (List.replicate 255 0x02))) =
    some (.idle, [], []) := by decide +kernel

/-- FR8, FR12. -/
theorem test_term : after relayView (exec .wdataTerm (inRelay .parse [0x07])) = some (.idle, [0x07], []) ∧
    after (fun s => (s.relay.tmode, s.relay.inCount))
      (exec .wdataTerm (opened 6 (inRelay .parse (0x03 :: List.replicate 254 0)))) = some (.recv, 0) := by decide +kernel

/-! ### Commands and transfers -/

/-- CM1: fields and header. -/
theorem test_cmd_send :
    after (fun s => (s.relay.tmode, s.relay.crc, s.relay.length, s.relay.outCount, s.hist))
        (exec (.cmdSend (fieldPayload 0x44332211 3)) (oks 1 (opened 9 c0))) =
      some (.send, 0x44332211, 3, 0, [.sockSend [0x22, 0x11, 0x00, 0x03, 0x44, 0x33]]) := by decide

/-- CM2: six bytes are one too few. -/
theorem test_cmd_send_short :
    after (fun s => (s.relay.tmode, s.relay.length, s.hist))
        (exec (.cmdSend [0x11, 0x22, 0x33, 0x44, 0x03]) (opened 9 c0)) = some (.idle, 9, []) := by decide

/-- CM5, CM6. -/
theorem test_cmd_recv : after (fun s => (s.relay.tmode, s.relay.length)) (exec (.cmdRecv []) (opened 6 c0)) =
      some (.recv, 6) ∧ after relayView (exec (.cmdRecv []) c0) = some (.idle, [0x03], []) := by decide

/-- CM7, CM14. -/
theorem test_cmd_unimplemented :
    after relayView (exec (.cmdDuplex [0, 0, 0, 0, 0, 0]) (opened 6 c0)) = some (.idle, [0x04, 0, 0, 0, 0, 0, 0], []) ∧
    after relayView (exec (.cmdDns []) c0) = some (.idle, [0x07], []) := by decide

/-- X6, CM8: the target parsed and the target connected to. -/
theorem test_cmd_connect :
    after (fun s => (s.relay.tmode, s.relay.sock, s.relay.pendAddr, s.relay.pendPort, s.hist))
        (exec (.cmdConnect (fieldPayload 0x0A000002 80)) (answers [{ handle := 1 }] c0)) =
      some (.idle, some ⟨0, 1⟩, 0x0A000002, 0x0050, [.sockConnect 0x7F000001 0x0C45]) := by decide

/-- CM9: the connect fails. -/
theorem test_cmd_connect_fails :
    after (fun s => (s.relay.sock, s.relay.pendPort))
        (exec (.cmdConnect (fieldPayload 0x0A000002 80)) (answers [{ ok := false, handle := 1 }] c0)) =
      some (none, 0x0050) := by decide

/-- CM12, CM13. -/
theorem test_cmd_disconnect :
    after (fun s => (s.relay.sock, s.hist)) (exec (.cmdDisconnect []) (oks 1 (opened 0 c0))) = some (none, [.sockClose ⟨0, 7⟩]) ∧
    after relayView (exec (.cmdDisconnect []) c0) = some (.idle, [0x06], []) := by decide

/-- TR2: a phase of length 0 takes one write. TR3: the low byte is sent. -/
theorem test_payload_out :
    after (fun s => (s.relay.tmode, s.relay.outCount, s.hist)) (exec (.wdataPayloadOut 0x55) (oks 1 (opened 0 (inRelay .send [])))) =
      some (.idle, 1, [.sockSend [0x55]]) ∧
    after (fun s => (s.relay.tmode, s.relay.outCount, s.hist)) (exec (.wdata 0x1234) (oks 1 (opened 5 (inRelay .send [])))) =
      some (.send, 1, [.sockSend [0x34]]) := by decide

/-- TR5's first read, and TR7. -/
theorem test_payload_in :
    after (fun s => (s.out, s.relay.tmode, s.relay.inCount))
        (exec .rdataPayloadIn (answers [{ byte := 0xAB }] (opened 2 (inRelay .recv [])))) = some (some 0x00AB, .recv, 1) ∧
    after (fun s => (s.out, s.relay.tmode, s.relay.inCount))
        (exec .rdata (answers [{ byte := 0x11 }] (opened 0 (inRelay .recv [])))) = some (some 0x0011, .idle, 1) := by decide

/-- TR6. -/
theorem test_xfer_ign : after (fun s => (s.relay.tmode, s.relay.inCount, s.hist))
    (exec (.wdataXferIgn 0x89) (opened 2 (inRelay .recv []))) = some (.recv, 0, []) := by decide

/-- TR4, TR8, TR10. -/
theorem test_read_nodata : after (fun s => (s.out, s.hist)) (exec .rdataReadNodata (opened 5 (inRelay .send []))) =
      some (some 0xDEAD, []) ∧
    after (fun s => (s.out, s.hist)) (exec .rdata (inRelay .reserved [])) = some (some 0xDEAD, []) := by decide

/-- TR9. -/
theorem test_read_estab : after (fun s => (s.out, relayView s)) (exec .rdataReadEstab (inRelay .estab [])) =
    some (some 0x0000, .estab, [], []) := by decide

/-- TR11's write. -/
theorem test_duplex_out : after (fun s => (s.relay.tmode, s.relay.outCount, s.hist))
    (exec (.wdataDuplexOut 0x10) (oks 1 (opened 1 (inRelay .sendRecv [])))) = some (.sendRecv, 1, [.sockSend [0x10]]) := by
  decide

/-- TR11's read. -/
theorem test_duplex_in : after (fun s => (s.out, s.relay.tmode, s.relay.inCount))
    (exec .rdataDuplexIn (answers [{ byte := 0x20 }] (opened 1 (inRelay .sendRecv [])))) = some (some 0x0020, .idle, 1) := by
  decide

/-- 60_exceptions.md R266, R267: a call with no answer holds the request, and the next step does nothing. -/
theorem test_hold : after (fun s => (s.pending != .idle, s.hist)) (exec (.wdata 0x55) (opened 0 (inRelay .send []))) =
      some (true, [.sockSend [0x55]]) ∧
    refusal (exec .rdata { c0 with pending := .held (.sockSend [0x55]) true [] }) = some .reentrant := by decide

/-- One step from reset runs the word that is placed (20_memory.md R60). -/
theorem test_step : after relayView (step (State.reset.withFetchWord 36 0x300000089)) = some (.parse, [], []) := by decide

/-! ### Witnesses: states and operands that meet the hypotheses of a statement together, clause by clause -/

/-- The plain answer of the states below. -/
def ok : Answer := {}

/-- Send with an open socket, and one answer there. -/
def sending (length outCount : Word) : State :=
  oks 1 { opened length (inRelay .send []) with relay := { (opened length (inRelay .send [])).relay with outCount := outCount } }

/-- Recv with an open socket, and one answer there. -/
def receiving (length inCount : Word) : State :=
  oks 1 { opened length (inRelay .recv []) with relay := { (opened length (inRelay .recv [])).relay with inCount := inCount } }

/-- A request held at a SockSend, with nothing left to do. -/
def holding : State := { c0 with pending := .held (.sockSend [0x55]) true [] }

/-- Parse with a command and `n` payload bytes stored. -/
def parsing (c : Command) (n : Nat) : State := inRelay .parse (c.code :: List.replicate n 0x41)

theorem witness_RequestsDecodeFromTheirWords :
    (Instr.setdrv 7 0xFFFF).isRequest = true ∧ Instr.reservedOpF.isRequest = true := by decide

theorem witness_RowsDecodeFromTheirWords :
    (∀ row : WriteRow, (row.instr 0x41).wellFormed = true) ∧ (WriteRow.codeDrop.instr 0x08).wellFormed = true ∧
    (WriteRow.codeDrop.instr 0xFD).wellFormed = true ∧ (WriteRow.idleIgn.instr 0xFE).wellFormed = true ∧
    (WriteRow.append.instr 0xFF).wellFormed = true ∧ (WriteRow.overflow.instr 0x89).wellFormed = true :=
  ⟨fun row => by cases row <;> decide, by decide⟩

theorem witness_FramesDecodeFromTheirBytes : payloadFits [] = true ∧ payloadFits (List.replicate 254 0x41) = true := by
  decide +kernel

theorem witness_FramerAgreesWithFrameDecoding : Ready c0 ∧ c0.relay.tmode = .idle ∧
    decodeFrame [0x89, 0x09, 0xFD, 0x07, 0x41, 0xFE] = .ok (.cmdDns [0x41], []) := by decide

theorem witness_StepRunsTheDecodedRequest :
    ({ c0 with port := [0x800000000] } : State).pending = .idle ∧
    ({ c0 with port := [0x800000000] } : State).port = 0x800000000 :: [] := by decide

theorem witness_WaitingChangesNothing : holding.pending = .held (.sockSend [0x55]) true [] ∧ holding.replies = [] ∧
    c0.pending = .idle ∧ c0.port = [] := by decide

theorem witness_HeldRequestLosesNothing : (opened 5 (inRelay .send [])).replies = ([] : List Answer).map Reply.answer ∧
    after (fun t => t.pending != .idle) (exec (decode 0x300000055) (opened 5 (inRelay .send []))) = some true := by decide

theorem witness_ReservedKindsRefused : (0x0 : BitVec 4) = 0x0 ∧ (0xB : BitVec 4) ≤ 0xB ∧ (0xB : BitVec 4) ≤ 0xF ∧
    ({ c0 with ctx := { c0.ctx with alive := false } } : State).ctx.alive = false := by decide

theorem witness_RefusedExactlyWhenMeaningless : Instr.reservedOp0.isReserved = true ∧
    ({ c0 with ctx := { c0.ctx with alive := false } } : State).ctx.alive = false ∧ holding.pending ≠ .idle ∧
    Ready (sending 5 0) ∧ OnlyAnswers (sending 5 0) ∧ (Instr.wdata 0x41).isReserved = false :=
  ⟨rfl, rfl, by decide, by decide, fun x h => ⟨ok, by simpa [sending, oks, ok] using h⟩, rfl⟩

theorem witness_ReentrantRequestRefused :
    ({ holding with replies := [.request 0x400000000] } : State).pending = .held (.sockSend [0x55]) true [] ∧
    ({ holding with replies := [.request 0x400000000] } : State).replies = [.request 0x400000000] ∧
    Ready { sending 5 0 with replies := [.request 0x400000000] } ∧ (sending 5 0).relay.tmode = .send := by decide

/-- A state that differs from C0 only in what the agents have done: in it every handle the history closes has been counted. -/
theorem settled_like_c0 {s : State} (hp : s.params = params) (hc : s.ctx = c0.ctx) (hr : s.relay = c0.relay)
    (hh : ∀ h, Event.sockClose h ∈ s.hist → h.serial < s.connects) : Settled s where
  siocnt_masked := by rw [hc]; decide
  rcnt_low_kept := by rw [hc, hp]; decide
  mode_set := by rw [hc]; decide
  mode_derived := by rw [hc, hp]; decide
  active_is_lookup := by rw [hc]; decide
  cursor_le := by rw [hr]; decide
  code_in_range := by rw [hr]; decide
  tmode_reachable := by rw [hr]; decide
  sock_open := by rw [hc, hr]; decide
  handles_counted := fun h hs => hs.elim (by rw [hr]; intro x; cases x) (hh h)
  out_below := by rw [hr]; decide
  in_below := by rw [hr]; decide

/-- A state between requests, and a held one: in each the invariant holds and a step answers a next state. -/
theorem witness_InvariantKeptByEveryStep :
    Inv { c0 with port := [0x300000089] } ∧
    after (fun t => t.relay.tmode) (step { c0 with port := [0x300000089] }) = some .parse ∧
    Inv holding ∧ after (fun t => t.pending) (step (oks 1 holding)) = some .idle := by
  refine ⟨settled_like_c0 rfl rfl rfl (by simp [c0, State.reset, State.constructed]), by decide, fun xs t h hi => ?_, by decide⟩
  cases xs with
  | nil => cases h; cases hi
  | cons x xs => cases h; exact settled_like_c0 rfl rfl rfl (fun h hm => by cases hm)

theorem witness_StepOnlyAppendsHistory :
    after (fun t => t.hist) (step { sending 5 0 with port := [0x300000055] }) = some [.sockSend [0x55]] ∧
    after (fun t => t.hist) (exec (.wdata 0x55) (sending 5 0)) = some [.sockSend [0x55]] := by decide

theorem witness_DataRequestsIgnoreContext : (inMode 0xC000 0x1000).ctx.alive = c0.ctx.alive := by decide

theorem witness_TransferPhaseNotLeftEarly : (Instr.wdata 0x41).isFrame = false ∧ Instr.rdata.isFrame = false ∧
    after (fun _ => true) (exec (.wdata 0x41) (sending 2 0)) = some true ∧ (sending 2 0).relay.tmode = .send ∧
    (sending 2 0).relay.outCount.toNat + 1 < (sending 2 0).relay.length.toNat ∧
    after (fun _ => true) (exec .rdata (receiving 0xFFFF 0xFFFD)) = some true ∧
    (receiving 0xFFFF 0xFFFD).relay.tmode = .recv ∧
    (receiving 0xFFFF 0xFFFD).relay.inCount.toNat + 1 < (receiving 0xFFFF 0xFFFD).relay.length.toNat := by decide

theorem witness_ParseEnteredOnlyByStart : (Instr.wdata 0xFF89).isFrame = false ∧ c0.relay.tmode ≠ .parse ∧
    after (fun t => t.relay.tmode) (exec (.wdata 0xFF89) c0) = some .parse := by decide

theorem witness_SerialInterruptOnlyFromQuirk : paramsOk (inMode 0 0).params = true ∧
    after (fun t => irqCount t.hist) (exec (.wsiocnt 0x4081) (inMode 0 0)) = some 1 := by decide

theorem witness_WrcntResult :
    let s := oks 3 (drv .normal 4 (drv .multiplayer 2 (inMode 0 0)))
    Ready s ∧ Answered s [ok, ok, ok] [] ∧
    [ok, ok, ok].length = (rederiveEvents params s.ctx .normal8 .multiplayer ++
      drvWriteEvents params .rcnt 0x8000 (s.ctx.lookup .multiplayer)).length := by decide

theorem witness_WsiocntResult :
    let s := oks 1 (drv .normal 1 (inMode 0 0))
    let u := oks 2 (drv .normal 4 (inMode 0 0x1000))
    Ready s ∧ s.ctx.lookup .normal8 = some 1 ∧ (capsOf s.params 1).writeRegister = true ∧ Answered s ([] ++ [ok]) [] ∧
    Ready u ∧ [ok, ok].length = (rederiveEvents u.params u.ctx .normal32 .normal8).length ∧
    u.ctx.lookup .normal8 = some 4 ∧ (capsOf u.params 4).writeRegister = false ∧ Answered u [ok, ok] [] := by decide

theorem witness_QuirkBits : paramsOk params = true := by decide

theorem witness_ModeMapsAreThoseAllowed :
    let f := fun s : BitVec 4 => if s = 5 ∨ s = 1 then LinkMode.normal32 else if s < 8 then .normal8
      else if s = 8 then .joybus else .multiplayer
    (∀ s, s < 8 → f s = .normal8 ∨ f s = .normal32) ∧
    (∀ s s', s < 8 → s' < 8 → s.extractLsb' 0 2 = s'.extractLsb' 0 2 → f s = f s') ∧
    (∀ s, 8 ≤ s → f s = .multiplayer ∨ f s = .joybus) := by decide

/-- X1's two orders. -/
theorem witness_ModeIsPureFunctionOfRegisters :
    Ready (inMode 0 0) ∧ (inMode 0 0).ctx.mode = deriveMode params 0 0 ∧
    after (fun t => (t.pending, t.ctx.rcnt, t.ctx.siocnt)) (performAll [.wrcnt 0xC000, .wsiocnt 0x1000] (inMode 0 0)) =
      some (.idle, 0xC000, 0x1000) ∧
    after (fun t => (t.pending, t.ctx.rcnt, t.ctx.siocnt)) (performAll [.wsiocnt 0x1000, .wrcnt 0xC000] (inMode 0 0)) =
      some (.idle, 0xC000, 0x1000) := by decide

theorem witness_NormalWidthChangeReloads :
    let s := oks 2 (drv .normal 4 (inMode 0 0x1000))
    Ready s ∧ s.ctx.slotNormal = some 4 ∧ (capsOf s.params 4).writeRegister = false ∧
    ((0x0000 : Word) ^^^ s.ctx.siocnt) &&& 0x3000 ≠ 0 ∧ s.ctx.mode = .normal32 ∧
    modeMap s.params (selector s.ctx.rcnt (0x0000 &&& 0x3000)) = .normal8 ∧
    (capsOf s.params 4).unload = true ∧ (capsOf s.params 4).load = true ∧ Answered s [ok, ok] [] := by decide

theorem witness_ResetResult :
    let s := oks 2 (drv .normal 4 (drv .multiplayer 4 (inMode 0x0010 0x1000)))
    Ready s ∧ Answered s [ok, ok] [] ∧ [ok, ok].length =
      (unloadEvents params (s.ctx.lookup .normal32) ++ loadEvents params (s.ctx.lookup .multiplayer)).length := by decide

theorem witness_SetdrvUnsupportedMode : Ready c0 ∧ (4 : BitVec 3) ≤ 4 ∧ (4 : BitVec 3) ≤ 7 := by decide

/-- SD4, and driver 3, which has no hook, into a slot that is not the current mode's. -/
theorem witness_SetdrvInstalls :
    let s := oks 4 (drv .multiplayer 2 c0)
    Ready s ∧ slotOfCode 2 = some .multiplayer ∧ (1 : Handle) ≠ 0 ∧ Answered s ([ok, ok] ++ [ok] ++ [ok]) [] ∧
    (retireEvents s .multiplayer).length = 2 ∧ (capsOf s.params 1).init = true ∧ ok.ok = true ∧
    (loadEvents s.params (some 1)).length = 1 ∧
    Ready c0 ∧ slotOfCode 0 = some .normal ∧ Answered c0 ([] ++ [] ++ []) [] ∧ (retireEvents c0 .normal).length = 0 ∧
    (capsOf c0.params 3).init = false ∧ slotOf c0.ctx.mode ≠ some .normal := by
  refine ⟨by decide, by decide, by decide, by decide, by decide, by decide, by decide, by decide, by decide, by decide,
    by decide, by decide, by decide, by decide⟩

theorem witness_SetdrvInitFailureKeepsSlot :
    let s := answers [ok, ok, { ok := false }, ok] (drv .multiplayer 2 c0)
    Ready s ∧ slotOfCode 2 = some .multiplayer ∧ (5 : Handle) ≠ 0 ∧ (capsOf s.params 5).init = true ∧
    ({ ok := false } : Answer).ok = false ∧ Answered s ([ok, ok] ++ [{ ok := false }] ++ [ok]) [] ∧
    (retireEvents s .multiplayer).length = 2 ∧ (deinitEvents s.params (some 5)).length = 1 := by decide

theorem witness_SetdrvRemoves :
    let s := oks 2 (drv .multiplayer 2 c0)
    Ready s ∧ slotOfCode 2 = some .multiplayer ∧ Answered s [ok, ok] [] ∧ (retireEvents s .multiplayer).length = 2 ∧
    slotOf s.ctx.mode = some .multiplayer := by decide

theorem witness_DestroyResult :
    let s := oks 5 (opened 0 (drv .normal 5 (drv .multiplayer 2 (drv .joybus 5 c0))))
    Ready s ∧ Answered s [ok, ok, ok, ok, ok] [] ∧ (unloadEvents s.params (s.ctx.lookup s.ctx.mode) ++
      deinitEvents s.params s.ctx.slotNormal ++ deinitEvents s.params s.ctx.slotMultiplayer ++
      deinitEvents s.params s.ctx.slotJoybus ++ s.relay.sock.toList.map Event.sockClose).length = 5 := by decide

theorem witness_WotherResult :
    let s := oks 1 (drv .multiplayer 2 c0)
    Ready s ∧ s.ctx.lookup s.ctx.mode = some 2 ∧ (capsOf s.params 2).writeRegister = true ∧ Answered s [ok] [] ∧
    Ready (drv .multiplayer 4 c0) ∧ (drv .multiplayer 4 c0).ctx.lookup .multiplayer = some 4 ∧
    (capsOf params 4).writeRegister = false ∧ c0.ctx.lookup c0.ctx.mode = none := by decide

theorem witness_DataRequestsTakeTheirRow : lowByte 0x1289 = lowByte 0x0089 := by decide

theorem witness_RowsAreTheirRequests : encode .wdataTerm = [0x3000000FE] ∧ encode .rdataDuplexIn = [0x400000000] := by decide

theorem witness_FramerWriteResult : Ready c0 ∧ c0.relay.tmode = .idle ∧ Ready (inRelay .parse []) ∧
    (inRelay .parse []).relay.cursor = 0 ∧ (inRelay .parse []).relay.tmode = .parse ∧
    lowByte 0x0041 ≠ 0xFE ∧ Ready (inRelay .parse (List.replicate 255 0x02)) ∧
    (inRelay .parse (List.replicate 255 0x02)).relay.cursor = 255 ∧ 1 ≤ (parsing .dns 0).relay.cursor ∧
    lowByte 0xFFFE = 0xFE := by decide +kernel

theorem witness_StartOpensFrame : Ready c0 ∧ c0.relay.tmode = .idle := by decide

theorem witness_IgnoredBytesChangeNothing : Ready c0 ∧ c0.relay.tmode = .idle ∧ (0xFE : Byte) ≠ 0x89 ∧
    Ready (inRelay .parse []) ∧ (inRelay .parse []).relay.tmode = .parse ∧ (inRelay .parse []).relay.cursor = 0 ∧
    (0x08 : Byte) ≤ 0x08 ∧ (0x08 : Byte) ≤ 0xFD ∧ (0xFD : Byte) ≤ 0xFD ∧ Ready (receiving 2 0) ∧
    (receiving 2 0).relay.tmode = .recv := by decide

theorem witness_CancelBytesEndFrame : Ready (inRelay .parse []) ∧ (inRelay .parse []).relay.tmode = .parse ∧
    (inRelay .parse []).relay.cursor = 0 := by decide

theorem witness_CommandCodesStored : Ready (inRelay .parse []) ∧ (inRelay .parse []).relay.tmode = .parse ∧
    (inRelay .parse []).relay.cursor = 0 := by decide

theorem witness_AppendOrOverflow : (0x89 : Byte) ≠ 0xFE ∧ Ready (parsing .send 0) ∧ (parsing .send 0).relay.tmode = .parse ∧
    (parsing .send 0).relay.cursor = 1 ∧ Ready (parsing .send 253) ∧ (parsing .send 253).relay.cursor = 254 ∧
    Ready (parsing .send 254) ∧ (parsing .send 254).relay.cursor = 255 := by decide +kernel

theorem witness_TermDispatches :
    let s := oks 1 (opened 9 (parsing .send 6))
    let c := oks 1 (parsing .connect 6)
    let d := oks 1 (opened 9 (parsing .disconnect 0))
    Ready s ∧ s.relay.tmode = .parse ∧ s.relay.buf = Command.send.code :: List.replicate 6 0x41 ∧ s.relay.sock ≠ none ∧
    Answered s [ok] [] ∧ Ready c ∧ c.relay.buf = Command.connect.code :: List.replicate 6 0x41 ∧ c.relay.sock = none ∧
    Answered c [ok] [] ∧ Ready d ∧ d.relay.buf = Command.disconnect.code :: [] ∧ d.relay.sock = some ⟨0, 7⟩ ∧
    Answered d [ok] [] ∧ (parsing .send 5).relay.sock = none := by
  refine ⟨by decide, by decide, by decide, by decide, by decide, by decide, by decide, by decide, by decide, by decide,
    by decide, by decide, by decide, by decide⟩

theorem witness_PayloadOutResult : Ready (sending 1 0) ∧ (sending 1 0).relay.tmode = .send ∧ Answered (sending 1 0) [ok] [] := by
  decide

theorem witness_PayloadInResult :
    Ready (receiving 1 0) ∧ (receiving 1 0).relay.tmode = .recv ∧ Answered (receiving 1 0) [ok] [] := by decide

theorem witness_DuplexResults : let s := oks 1 (opened 1 (inRelay .sendRecv []))
    Ready s ∧ s.relay.tmode = .sendRecv ∧ Answered s [ok] [] := by decide

theorem witness_ReadsWithoutSideEffects : Ready c0 ∧ c0.relay.tmode = .idle ∧ Ready (inRelay .reserved []) ∧
    (inRelay .reserved []).relay.tmode = .reserved ∧ Ready (inRelay .estab []) ∧
    (inRelay .estab []).relay.tmode = .estab := by decide

theorem witness_UnansweredSocketCallHolds :
    let s := opened 5 (inRelay .send [])
    let r := opened 5 (inRelay .recv [])
    let d := opened 5 (parsing .disconnect 0)
    Ready s ∧ s.replies = [] ∧ s.relay.tmode = .send ∧ Ready r ∧ r.replies = [] ∧ r.relay.tmode = .recv ∧ Ready d ∧
    d.replies = [] ∧ d.relay.tmode = .parse ∧ d.relay.buf = 0x06 :: [] ∧ d.relay.sock = some ⟨0, 7⟩ := by decide

theorem witness_FrameReachesDispatch : Ready c0 ∧ c0.relay.tmode = .idle ∧ payloadFits [] = true ∧
    payloadFits (List.replicate 254 0x89) = true := by decide +kernel

theorem witness_OverflowAfter255Bytes : Ready (parsing .dns 0) ∧ (parsing .dns 0).relay.tmode = .parse ∧
    (parsing .dns 0).relay.buf = [Command.dns.code] ∧ (List.replicate 255 (0x41 : Byte)).contains 0xFE = false ∧
    (List.replicate 255 (0x41 : Byte)).length = 255 ∧ (List.replicate 254 (0x41 : Byte)).contains 0xFE = false ∧
    (List.replicate 254 (0x41 : Byte)).length = 254 := by decide +kernel

theorem witness_SendFrameResult :
    let s := oks 1 (opened 9 c0)
    Ready s ∧ s.relay.tmode = .idle ∧ payloadFits (List.replicate 6 0x41) = true ∧ s.relay.sock ≠ none ∧
    Answered s [ok] [] ∧ payloadFits (List.replicate 5 0x41) = true := by decide

theorem witness_RecvFrameResult : Ready (opened 6 c0) ∧ (opened 6 c0).relay.tmode = .idle ∧ payloadFits [] = true := by decide

theorem witness_UnimplementedFramesResult : Ready c0 ∧ c0.relay.tmode = .idle ∧ payloadFits [0x41] = true := by decide

/-- C0 after a connection, with the handle named 7, was opened and closed. -/
def reopening : State := { c0 with hist := [.sockClose ⟨0, 7⟩], connects := 1 }

/-- R263: the handle is fresh even when the socket draws a name again. -/
theorem test_connect_handle_fresh :
    after (fun s => (s.relay.sock, s.connects))
        (exec (.cmdConnect (fieldPayload 0x0A000002 80)) (answers [{ handle := 7 }] reopening)) = some (some ⟨1, 7⟩, 2) := by
  decide

theorem witness_ConnectFrameResult :
    let s := oks 1 c0
    Ready s ∧ s.relay.tmode = .idle ∧ payloadFits (List.replicate 6 0x41) = true ∧ s.relay.sock = none ∧
    Answered s [ok] [] ∧ (opened 6 c0).relay.sock ≠ none ∧ Ready reopening ∧ reopening.relay.tmode = .idle ∧
    Settled reopening ∧ everHeld reopening ⟨0, 7⟩ :=
  ⟨by decide, by decide, by decide, by decide, by decide, by decide, by decide, by decide,
    settled_like_c0 rfl rfl rfl (fun h hm => by
      obtain rfl : h = ⟨0, 7⟩ := by simpa [reopening] using hm
      decide),
    .inr (by decide)⟩

theorem witness_DisconnectFrameResult :
    let s := oks 1 (opened 6 c0)
    Ready s ∧ s.relay.tmode = .idle ∧ payloadFits [] = true ∧ s.relay.sock = some ⟨0, 7⟩ ∧ Answered s [ok] [] ∧
    c0.relay.sock = none := by decide

theorem witness_FramesRunAsTheirRequests : (oks 1 c0).pending = .idle ∧ (oks 1 c0).port = [] ∧
    after (fun t => t.pending) (exec (.cmdConnect (fieldPayload 0x7F000001 3141)) (oks 1 c0)) = some .idle := by decide

theorem witness_SendPhaseTakesLengthWrites :
    let s := oks 3 (sending 3 0)
    Ready s ∧ s.relay.tmode = .send ∧ s.relay.outCount = 0 ∧ [0x41, 0x42, 0x43].length ≤ max s.relay.length.toNat 1 ∧
    Answered s [ok, ok, ok] [] ∧ [0x41].length ≤ max (sending 0 0).relay.length.toNat 1 := by decide

theorem witness_RecvPhaseTakesLengthReads :
    let s := oks 3 (receiving 3 0)
    Ready s ∧ s.relay.tmode = .recv ∧ s.relay.inCount = 0 ∧
    [ok, ok].length + 1 ≤ max s.relay.length.toNat 1 ∧ Answered s ([ok, ok] ++ [ok]) [] ∧
    ([] : List Answer).length + 1 ≤ max (receiving 0 0).relay.length.toNat 1 := by decide

end Sys2Proof.Tests
end

section
/-! The lines of a request, and what every instruction is made of: a refusal, one request's lines, or the DATA writes of a
frame. Then what a hold loses and what no step rewrites. -/

namespace Sys2Proof.Machine

open Sys2Proof

/-- The eight request kinds with a meaning, each with the lines of its pseudocode as a function of the state (R70). -/
inductive RequestLines : Instr → (State → List Act) → Prop where
  | wrcnt (value : Word) : RequestLines (.wrcnt value) (wrcntActs value)
  | wsiocnt (value : Word) : RequestLines (.wsiocnt value) (wsiocntActs value)
  | wdata (value : Word) : RequestLines (.wdata value) (dataWriteActs (lowByte value))
  | rdata : RequestLines .rdata dataReadActs
  | wother (off value : Word) : RequestLines (.wother off value) (wotherActs off value)
  | reset : RequestLines .reset resetActs
  | setdrv (code : BitVec 3) (handle : Handle) : RequestLines (.setdrv code handle) (setdrvActs code handle)
  | destroy : RequestLines .destroy destroyActs

theorem RequestLines.exec_eq {i : Instr} {acts : State → List Act} (h : RequestLines i acts) (s : State) :
    exec i s = perform (acts s) s := by
  cases h <;> rfl

/-- No line of a request depends on what the agents will answer. -/
theorem RequestLines.withReplies {i : Instr} {acts : State → List Act} (h : RequestLines i acts) (s : State)
    (rs : List Reply) : acts (s.withReplies rs) = acts s := by
  cases h <;> rfl

/-- A request word is a request with lines of its own, or a reserved kind, refused in every state (R70, R71). -/
theorem decode_lines_or_refused (w : ReqWord) :
    (∃ acts, RequestLines (decode w) acts) ∨ ∃ why, ∀ s, exec (decode w) s = .refused why := by
  unfold decode
  split
  exacts [.inr ⟨_, fun _ => rfl⟩, .inl ⟨_, .wrcnt _⟩, .inl ⟨_, .wsiocnt _⟩, .inl ⟨_, .wdata _⟩, .inl ⟨_, .rdata⟩,
    .inl ⟨_, .wother _ _⟩, .inr ⟨_, fun _ => rfl⟩, .inr ⟨_, fun _ => rfl⟩, .inl ⟨_, .reset⟩, .inl ⟨_, .setdrv _ _⟩,
    .inl ⟨_, .destroy⟩, .inr ⟨_, fun _ => rfl⟩, .inr ⟨_, fun _ => rfl⟩, .inr ⟨_, fun _ => rfl⟩, .inr ⟨_, fun _ => rfl⟩,
    .inr ⟨_, fun _ => rfl⟩]

/-- What an instruction is made of: a reserved kind is refused, a frame is DATA writes, and any other is the lines of one
request. -/
theorem exec_cases (i : Instr) (s : State) :
    (∃ why, exec i s = .refused why) ∨ (∃ acts, exec i s = perform acts s) ∨ ∃ bytes, exec i s = writeBytes bytes s := by
  cases i with
  | reservedOp0 | reservedOp6 | reservedOp7 | reservedOpB | reservedOpC | reservedOpD | reservedOpE | reservedOpF =>
    exact .inl ⟨_, rfl⟩
  | cmdSend | cmdRecv | cmdDuplex | cmdConnect | cmdDisconnect | cmdDns => exact .inr (.inr ⟨_, rfl⟩)
  | _ => exact .inr (.inl ⟨_, rfl⟩)

/-- A request that is performed found the block ready. -/
theorem perform_next {acts : List Act} {s t : State} (h : perform acts s = .next t) :
    Ready s ∧ run true acts (s.withOut none) = .next t := by
  cases ha : s.ctx.alive with
  | false => rw [perform_destroyed ha] at h; cases h
  | true =>
    by_cases hp : s.pending = .idle
    · exact ⟨⟨ha, hp⟩, perform_ready ⟨ha, hp⟩ acts ▸ h⟩
    · rw [perform_reentrant ha hp] at h; cases h

/-- A held block goes on only with an answer; with no reply it stays as it is (R266, R267). -/
theorem resume_next {e : Event} {r : Bool} {acts : List Act} {s t : State} (h : resume e r acts s = .next t) :
    (s.replies = [] ∧ t = s) ∨
    ∃ x rs, s.replies = .answer x :: rs ∧ run (answerR r e x) acts ((s.withReplies rs).useAnswer e x) = .next t := by
  rw [resume] at h
  split at h
  · next x rs hr => exact .inr ⟨x, rs, hr, h⟩
  · cases h
  · next hr => cases h; exact .inl ⟨hr, rfl⟩

/-- A held block goes on with what is pending. -/
theorem step_held {s : State} {e : Event} {r : Bool} {acts : List Act} (h : s.pending = .held e r acts) :
    step s = resume e r acts s := by
  rw [step, h]

/-- A step resumes what is pending, performs the request first at the port, or does nothing. -/
theorem step_next {s t : State} (h : step s = .next t) :
    (∃ e r acts, s.pending = .held e r acts ∧ resume e r acts s = .next t) ∨
    (s.pending = .idle ∧ ∃ w ws, s.port = w :: ws ∧ exec (decode w) (s.withPort ws) = .next t) ∨
    (s.pending = .idle ∧ t = s) := by
  rw [step] at h
  split at h
  · next e r acts hp => exact .inl ⟨e, r, acts, hp, h⟩
  · next hp =>
    cases hport : s.port with
    | nil =>
      simp only [takeRequest, hport, Host.Outcome.next.injEq] at h
      exact .inr (.inr ⟨hp, h.symm⟩)
    | cons w ws =>
      simp only [takeRequest, hport] at h
      exact .inr (.inl ⟨hp, w, ws, rfl, h⟩)

/-! ### A hold loses nothing (R41, R268) -/

/-- Settles O11: the request's lines do not depend on the replies, and a run that was held goes on as if they had been
there (`run_held_resumes`). -/
theorem heldRequestLosesNothing : Obligations.HeldRequestLosesNothing := by
  intro w s t xs more hxs hexec hheld
  rcases decode_lines_or_refused w with ⟨acts, hacts⟩ | ⟨why, hwhy⟩
  · rw [hacts.exec_eq] at hexec
    obtain ⟨hready, hrun⟩ := perform_next hexec
    obtain ⟨-, e, r, rest, hpend, hresume⟩ := run_held_resumes (acts s) xs true (s.withOut none) t more hxs hrun hheld
    have hstep : step (t.withReplies more) = resume e r rest (t.withReplies more) := step_held hpend
    have hready' : Ready (s.withReplies (s.replies ++ more)) := hready
    have hfull : exec (decode w) (s.withReplies (s.replies ++ more)) =
        run true (acts s) ((s.withOut none).withReplies (xs.map .answer ++ more)) := by
      rw [hacts.exec_eq, hacts.withReplies, perform_ready hready', hxs]; rfl
    exact hstep.trans (hresume.trans hfull.symm)
  · rw [hwhy] at hexec; cases hexec

/-! ### What no step or instruction rewrites (R37, R40) -/

/-- `t` may come after `s`: the parameters and the out length are those of `s`, the history begins with that of `s`, and no
fewer connects have succeeded. -/
structure Extends (s t : State) : Prop where
  params_eq : t.params = s.params
  outLength_eq : t.relay.outLength = s.relay.outLength
  connects_le : s.connects ≤ t.connects
  hist_append : ∃ es, t.hist = s.hist ++ es

theorem Extends.refl (s : State) : Extends s s := ⟨rfl, rfl, le_rfl, [], s.hist.append_nil.symm⟩

theorem Extends.trans {s t u : State} (h : Extends s t) (h' : Extends t u) : Extends s u := by
  obtain ⟨es, hes⟩ := h.hist_append
  obtain ⟨es', hes'⟩ := h'.hist_append
  exact ⟨h'.params_eq.trans h.params_eq, h'.outLength_eq.trans h.outLength_eq, h.connects_le.trans h'.connects_le,
    es ++ es', by rw [hes', hes, List.append_assoc]⟩

/-- An update that leaves the history, the parameters and the out length alone and does not lower the count. -/
theorem Extends.of_eq {s t : State} (hp : t.params = s.params) (ho : t.relay.outLength = s.relay.outLength)
    (hc : s.connects ≤ t.connects) (hh : t.hist = s.hist) : Extends s t :=
  ⟨hp, ho, hc, [], by rw [hh, List.append_nil]⟩

theorem extends_emit (s : State) (e : Event) : Extends s (s.emit e) := ⟨rfl, rfl, le_rfl, [e], rfl⟩
theorem extends_withOut (s : State) (v : Option Word) : Extends s (s.withOut v) := .of_eq rfl rfl le_rfl rfl
theorem extends_withPending (s : State) (p : Pending) : Extends s (s.withPending p) := .of_eq rfl rfl le_rfl rfl
theorem extends_withReplies (s : State) (rs : List Reply) : Extends s (s.withReplies rs) := .of_eq rfl rfl le_rfl rfl
theorem extends_withPort (s : State) (ws : List ReqWord) : Extends s (s.withPort ws) := .of_eq rfl rfl le_rfl rfl

theorem extends_apply (r : Bool) (a : Act) (s : State) : Extends s (a.apply r s) := by
  cases a with
  | emit e => exact extends_emit s e
  | emitIfFailed e =>
    cases r with
    | true => exact .refl s
    | false => exact extends_emit s e
  | _ => exact .of_eq rfl rfl le_rfl rfl

theorem extends_useAnswer (s : State) (e : Event) (x : Answer) : Extends s (s.useAnswer e x) := by
  obtain ⟨hhist, hparams, hout⟩ := useAnswer_hist s e x
  exact .of_eq hparams hout (useAnswer_connects_le s e x) hhist

/-- An answer that is taken from the replies. -/
theorem extends_answered (s : State) (e : Event) (x : Answer) (rs : List Reply) :
    Extends s ((s.withReplies rs).useAnswer e x) :=
  (extends_withReplies s rs).trans (extends_useAnswer _ e x)

theorem run_extends {acts : List Act} {r : Bool} {s t : State} (h : run r acts s = .next t) : Extends s t :=
  run_keeps (P := Extends s)
    (fun r a _ hu => hu.trans (extends_apply r a _))
    (fun _ e hu => hu.trans (extends_emit _ e))
    (fun _ e x rs hu => hu.trans (extends_answered _ e x rs))
    (fun _ p hu => hu.trans (extends_withPending _ p)) acts r s t (.refl s) h

theorem perform_extends {acts : List Act} {s t : State} (h : perform acts s = .next t) : Extends s t :=
  (extends_withOut s none).trans (run_extends (perform_next h).2)

theorem writeBytes_extends {bytes : List Byte} {s t : State} (h : writeBytes bytes s = .next t) : Extends s t := by
  induction bytes generalizing s with
  | nil => cases h; exact .refl _
  | cons b bytes ih =>
    rw [writeBytes] at h
    split at h
    · next u hu =>
      split at h
      · exact (perform_extends hu).trans (ih h)
      · cases h; exact (perform_extends hu).trans (extends_withPort u _)
    · cases h
    · cases h

theorem exec_extends {i : Instr} {s t : State} (h : exec i s = .next t) : Extends s t := by
  rcases exec_cases i s with ⟨why, hi⟩ | ⟨acts, hi⟩ | ⟨bytes, hi⟩ <;> rw [hi] at h
  · cases h
  · exact perform_extends h
  · exact writeBytes_extends h

theorem step_extends {s t : State} (h : step s = .next t) : Extends s t := by
  rcases step_next h with ⟨e, r, acts, -, hres⟩ | ⟨-, w, ws, -, hexec⟩ | ⟨-, rfl⟩
  · rcases resume_next hres with ⟨-, rfl⟩ | ⟨x, rs, -, hrun⟩
    · exact .refl _
    · exact (extends_answered s e x rs).trans (run_extends hrun)
  · exact (extends_withPort s ws).trans (exec_extends hexec)
  · exact .refl _

theorem Extends.appends {s t : State} (h : Extends s t) :
    t.params = s.params ∧ t.relay.outLength = s.relay.outLength ∧ s.connects ≤ t.connects ∧ ∃ es, t.hist = s.hist ++ es :=
  ⟨h.params_eq, h.outLength_eq, h.connects_le, h.hist_append⟩

/-- Settles O17: every update of the state extends it (`run_keeps`), so does every run, and an instruction or a step is made
of runs. -/
theorem stepOnlyAppendsHistory : Obligations.StepOnlyAppendsHistory :=
  ⟨fun _ _ h => (step_extends h).appends, fun _ _ _ h => (exec_extends h).appends⟩

end Sys2Proof.Machine
end

section
/-! The invariant of R43: which parts of the state it reads, what a request still owes it, and that every step keeps it. -/

namespace Sys2Proof.Machine

open Sys2Proof

/-! ### What the invariant reads -/

/-- The two states agree in all that `Settled` reads: the parameters, the block's fields, the count of connects, and which
handles the history closes. -/
structure Alike (s t : State) : Prop where
  params_eq : t.params = s.params
  ctx_eq : t.ctx = s.ctx
  relay_eq : t.relay = s.relay
  connects_eq : t.connects = s.connects
  closed_iff : ∀ h, Event.sockClose h ∈ t.hist ↔ Event.sockClose h ∈ s.hist

theorem Alike.symm {s t : State} (h : Alike s t) : Alike t s :=
  ⟨h.params_eq.symm, h.ctx_eq.symm, h.relay_eq.symm, h.connects_eq.symm, fun k => (h.closed_iff k).symm⟩

theorem alike_withOut (s : State) (v : Option Word) : Alike s (s.withOut v) := ⟨rfl, rfl, rfl, rfl, fun _ => .rfl⟩
theorem alike_withPending (s : State) (p : Pending) : Alike s (s.withPending p) := ⟨rfl, rfl, rfl, rfl, fun _ => .rfl⟩
theorem alike_withReplies (s : State) (rs : List Reply) : Alike s (s.withReplies rs) := ⟨rfl, rfl, rfl, rfl, fun _ => .rfl⟩
theorem alike_withPort (s : State) (ws : List ReqWord) : Alike s (s.withPort ws) := ⟨rfl, rfl, rfl, rfl, fun _ => .rfl⟩

/-! Every update makes alike states of alike states. -/

theorem Alike.emit {s t : State} (h : Alike s t) (e : Event) : Alike (s.emit e) (t.emit e) :=
  ⟨h.params_eq, h.ctx_eq, h.relay_eq, h.connects_eq, fun k => by simp [h.closed_iff k]⟩

theorem Alike.withCtx {s t : State} (h : Alike s t) (c : SioContext) : Alike (s.withCtx c) (t.withCtx c) :=
  ⟨h.params_eq, rfl, h.relay_eq, h.connects_eq, h.closed_iff⟩

theorem Alike.withRelay {s t : State} (h : Alike s t) (r : RelayState) : Alike (s.withRelay r) (t.withRelay r) :=
  ⟨h.params_eq, h.ctx_eq, rfl, h.connects_eq, h.closed_iff⟩

theorem Alike.withOut {s t : State} (h : Alike s t) (v : Option Word) : Alike (s.withOut v) (t.withOut v) :=
  ⟨h.params_eq, h.ctx_eq, h.relay_eq, h.connects_eq, h.closed_iff⟩

theorem Alike.apply {s t : State} (h : Alike s t) (r : Bool) (a : Act) : Alike (a.apply r s) (a.apply r t) := by
  cases a with
  | emit e => exact h.emit e
  | emitIfFailed e =>
    cases r with
    | true => exact h
    | false => exact h.emit e
  | call | callIfFailed | returnIfFailed => exact h
  | setOut => exact h.withOut _
  | setRcnt | setSiocnt | setMode | setActive | setSlot | setAlive =>
    simp only [Act.apply, h.ctx_eq]; exact h.withCtx _
  | setTmode | setBuf | setCrc | setLength | setInCount | setOutCount | setPendAddr | setPendPort | setSock =>
    simp only [Act.apply, h.relay_eq]; exact h.withRelay _

theorem Alike.useAnswer {s t : State} (h : Alike s t) (e : Event) (x : Answer) :
    Alike (s.useAnswer e x) (t.useAnswer e x) := by
  cases e with
  | drvWrite d reg v =>
    cases reg with
    | rcnt => exact h
    | siocnt | other => exact h.withOut _
  | sockConnect addr port =>
    cases hx : x.ok with
    | false => simpa [State.useAnswer, State.useConnect, hx] using h
    | true =>
      simp only [State.useAnswer, State.useConnect, hx, if_true, freshHandle_eq, h.relay_eq, h.connects_eq]
      exact ⟨h.params_eq, h.ctx_eq, rfl, rfl, h.closed_iff⟩
  | sockRecv => exact h.withOut _
  | _ => exact h

theorem Settled.of_alike {s t : State} (hs : Settled s) (h : Alike s t) : Settled t := by
  obtain ⟨p, c, r, hist, pend, out, port, replies, n⟩ := t
  obtain ⟨hparams, hctx, hrelay, hconnects, hclosed⟩ := h
  dsimp only at hparams hctx hrelay hconnects hclosed
  subst hparams hctx hrelay hconnects
  exact { hs with handles_counted := fun k hk => hs.handles_counted k (hk.imp_right (hclosed k).mp) }

theorem Alike.settled_iff {s t : State} (h : Alike s t) : Settled t ↔ Settled s :=
  ⟨fun ht => ht.of_alike h.symm, fun hs => hs.of_alike h⟩

/-! ### What a request still owes the invariant -/

/-- However the calls of the lines still to run are answered, the state in which they end is `Settled`. -/
def Ends (r : Bool) (acts : List Act) (s : State) : Prop :=
  ∀ (xs : List Answer) (t : State), run r acts (s.withReplies (xs.map .answer)) = .next t → t.pending = .idle → Settled t

theorem ends_nil {r : Bool} {s : State} : Ends r [] s ↔ Settled s := by
  have halike (xs : List Answer) : Alike s ((s.withReplies (xs.map .answer)).withPending .idle) :=
    ⟨rfl, rfl, rfl, rfl, fun _ => .rfl⟩
  constructor
  · intro h
    exact (halike []).settled_iff.mp (h [] _ rfl rfl)
  · intro hs xs t ht _
    cases ht
    exact hs.of_alike (halike xs)

theorem ends_return {r : Bool} {a : Act} (hw : a.waitsOn r = none) (hr : a.returns r = true) {rest : List Act} {s : State} :
    Ends r (a :: rest) s ↔ Settled s := by
  rw [← ends_nil (r := r)]
  simp only [Ends, run, hw, hr, if_true]

theorem ends_quiet {r : Bool} {a : Act} (hw : a.waitsOn r = none) (hr : a.returns r = false) {rest : List Act} {s : State} :
    Ends r (a :: rest) s ↔ Ends r rest (a.apply r s) := by
  simp only [Ends, run_quiet hw hr, apply_withReplies]

theorem ends_wait {r : Bool} {a : Act} {e : Event} (hw : a.waitsOn r = some e) {rest : List Act} {s : State} :
    Ends r (a :: rest) s ↔ ∀ x, Ends (answerR r e x) rest ((s.emit e).useAnswer e x) := by
  have hrun (x : Answer) (xs : List Answer) :
      run r (a :: rest) (s.withReplies ((x :: xs).map .answer)) =
        run (answerR r e x) rest (((s.emit e).useAnswer e x).withReplies (xs.map .answer)) := by
    rw [run, ← useAnswer_withReplies]; simp only [hw]; rfl
  constructor
  · intro h x xs t ht
    exact h (x :: xs) t ((hrun x xs).trans ht)
  · intro h xs t ht hidle
    cases xs with
    | nil =>
      simp only [run, hw, List.map_nil, State.withReplies_replies] at ht
      cases ht; cases hidle
    | cons x xs => exact h x xs t ((hrun x xs).symm.trans ht) hidle

/-- A line waits on a call, ends the request, or is applied. -/
theorem act_cases (r : Bool) (a : Act) :
    (∃ e, a.waitsOn r = some e) ∨ (a.waitsOn r = none ∧ a.returns r = true) ∨ (a.waitsOn r = none ∧ a.returns r = false) := by
  cases a.waitsOn r <;> cases a.returns r <;> simp

theorem Ends.of_alike {acts : List Act} {r : Bool} {s t : State} (hs : Ends r acts s) (h : Alike s t) : Ends r acts t := by
  induction acts generalizing r s t with
  | nil => exact ends_nil.mpr ((ends_nil.mp hs).of_alike h)
  | cons a rest ih =>
    rcases act_cases r a with ⟨e, hw⟩ | ⟨hw, hr⟩ | ⟨hw, hr⟩
    · rw [ends_wait hw] at hs ⊢
      exact fun x => ih (hs x) ((h.emit e).useAnswer e x)
    · rw [ends_return hw hr] at hs ⊢
      exact hs.of_alike h
    · rw [ends_quiet hw hr] at hs ⊢
      exact ih hs (h.apply r a)

theorem Alike.ends_iff {r : Bool} {acts : List Act} {s t : State} (h : Alike s t) : Ends r acts t ↔ Ends r acts s :=
  ⟨fun ht => ht.of_alike h.symm, fun hs => hs.of_alike h⟩

/-! ### The invariant of a held state, and what keeps it -/

/-- A held state keeps the invariant when every answer leaves lines that end `Settled`. -/
theorem inv_held_iff {s : State} {e : Event} {r : Bool} {acts : List Act} (hp : s.pending = .held e r acts) :
    Inv s ↔ ∀ x, Ends (answerR r e x) acts (s.useAnswer e x) := by
  have hresume (x : Answer) (xs : List Answer) :
      resume e r acts (s.withReplies ((x :: xs).map .answer)) =
        run (answerR r e x) acts ((s.useAnswer e x).withReplies (xs.map .answer)) := by
    rw [resume, ← useAnswer_withReplies]; rfl
  simp only [Inv, hp]
  constructor
  · intro h x xs t ht
    exact h (x :: xs) t ((hresume x xs).trans ht)
  · intro h xs t ht hidle
    cases xs with
    | nil =>
      cases ht
      rw [State.withReplies_pending, hp] at hidle; cases hidle
    | cons x xs => exact h x xs t ((hresume x xs).symm.trans ht) hidle

theorem inv_idle_iff {s : State} (hp : s.pending = .idle) : Inv s ↔ Settled s := by
  simp only [Inv, hp]

/-- Lines that end `Settled` leave a state, complete or held, with the invariant. -/
theorem run_inv {acts : List Act} {r : Bool} {s t : State} (hs : Ends r acts s) (h : run r acts s = .next t) : Inv t := by
  induction acts generalizing r s with
  | nil =>
    cases h
    exact (ends_nil.mp hs).of_alike (alike_withPending s _)
  | cons a rest ih =>
    rw [run] at h
    rcases act_cases r a with ⟨e, hw⟩ | ⟨hw, hr⟩ | ⟨hw, hr⟩
    · rw [ends_wait hw] at hs
      simp only [hw] at h
      split at h
      · next x replies _ =>
        exact ih ((hs x).of_alike ((alike_withReplies _ replies).useAnswer e x)) h
      · cases h
      · cases h
        refine (inv_held_iff rfl).mpr fun x => (hs x).of_alike ?_
        exact (alike_withPending _ _).useAnswer e x
    · simp only [hw, hr, if_true] at h
      cases h
      exact ((ends_return hw hr).mp hs).of_alike (alike_withPending s _)
    · simp only [hw, hr, Bool.false_eq_true, if_false] at h
      exact ih ((ends_quiet hw hr).mp hs) h

theorem resume_inv {e : Event} {r : Bool} {acts : List Act} {s t : State} (hp : s.pending = .held e r acts) (hs : Inv s)
    (h : resume e r acts s = .next t) : Inv t := by
  rcases resume_next h with ⟨-, rfl⟩ | ⟨x, rs, -, hrun⟩
  · exact hs
  · exact run_inv (((inv_held_iff hp).mp hs x).of_alike ((alike_withReplies s rs).useAnswer e x)) hrun

end Sys2Proof.Machine
end

section
/-! The requests keep the invariant: what their shared steps owe it, then each request (R100 to R117, R140, R160 to R197, R220
to R227, R280). -/

namespace Sys2Proof.Machine

open Sys2Proof

/-! ### Calls the invariant does not hear -/

/-- The event, and any answer to it, leaves all that the invariant reads. -/
def Event.silent : Event → Bool
  | .init _ => false
  | .sockConnect _ _ => false
  | .sockClose _ => false
  | _ => true

theorem alike_emit {e : Event} (h : ∀ k, Event.sockClose k ≠ e) (s : State) : Alike s (s.emit e) :=
  ⟨rfl, rfl, rfl, rfl, fun k => by simp [h k]⟩

theorem silent_ne_sockClose {e : Event} (h : e.silent = true) (k : SockHandle) : Event.sockClose k ≠ e := by
  rintro rfl; cases h

theorem alike_answered {e : Event} (h : e.silent = true) (s : State) (x : Answer) : Alike s ((s.emit e).useAnswer e x) := by
  have hemit := alike_emit (silent_ne_sockClose h) s
  cases e with
  | init | sockConnect | sockClose => cases h
  | drvWrite d reg v =>
    cases reg with
    | rcnt => exact hemit
    | siocnt | other => exact ⟨rfl, rfl, rfl, rfl, hemit.closed_iff⟩
  | sockRecv => exact ⟨rfl, rfl, rfl, rfl, hemit.closed_iff⟩
  | _ => exact hemit

theorem answerR_silent {e : Event} (h : e.silent = true) (r : Bool) (x : Answer) : answerR r e x = r := by
  cases e with
  | init => cases h
  | _ => rfl

variable {r : Bool} {rest : List Act} {s : State}

theorem ends_silent {a : Act} {e : Event} (hw : a.waitsOn r = some e) (h : e.silent = true) :
    Ends r (a :: rest) s ↔ Ends r rest s := by
  simp only [ends_wait hw, answerR_silent h, (alike_answered h s _).ends_iff]
  exact ⟨fun h => h {}, fun h _ => h⟩

theorem ends_emit {e : Event} (h : e.silent = true) : Ends r (.emit e :: rest) s ↔ Ends r rest s :=
  (ends_quiet rfl rfl).trans (alike_emit (silent_ne_sockClose h) s).ends_iff

theorem ends_setOut {v : Word} : Ends r (.setOut v :: rest) s ↔ Ends r rest s :=
  (ends_quiet rfl rfl).trans (alike_withOut s _).ends_iff

theorem ends_hook {b : Bool} {e : Event} (h : e.silent = true) : Ends r (hook b e ++ rest) s ↔ Ends r rest s := by
  cases b with
  | false => rfl
  | true => exact ends_silent rfl h

theorem ends_unload {p : Params} {d : Option Handle} : Ends r (unloadActs p d ++ rest) s ↔ Ends r rest s := by
  cases d with
  | none => rfl
  | some d => exact ends_hook rfl

theorem ends_load {p : Params} {d : Option Handle} : Ends r (loadActs p d ++ rest) s ↔ Ends r rest s := by
  cases d with
  | none => rfl
  | some d => exact ends_hook rfl

theorem ends_deinit {p : Params} {d : Option Handle} : Ends r (deinitActs p d ++ rest) s ↔ Ends r rest s := by
  cases d with
  | none => rfl
  | some d => exact ends_hook rfl

/-- The forward of a register write to its claimant, the last line of a request. -/
theorem ends_forward {d : Handle} {reg : RegId} {v : Word} : Ends r (forwardActs d reg v) s ↔ Settled s :=
  (ends_silent rfl rfl).trans ends_nil

theorem ends_quirk {p : Params} {m : LinkMode} {v : Word} : Ends r (quirkActs p m v) s ↔ Settled s := by
  unfold quirkActs
  split
  · exact (ends_emit rfl).trans (ends_setOut.trans ends_nil)
  · exact ends_setOut.trans ends_nil

/-! ### The mode and its driver -/

/-- MODE_MAP selects a mode (R103). -/
theorem deriveMode_ne_unset (p : Params) (rcnt siocnt : Word) : deriveMode p rcnt siocnt ≠ .unset := by
  unfold deriveMode modeMap
  split <;> split <;> decide

/-- What a request owes the invariant when it writes the SIOContext alone: clauses (a) to (d) and R107. -/
theorem Settled.withCtx {c : SioContext} (hs : Settled s) (hsiocnt : c.siocnt &&& ~~~siocntModeMask = 0)
    (hrcnt : c.rcnt &&& rcntKeepMask = s.params.rcntReset &&& rcntKeepMask)
    (hmode : c.mode = deriveMode s.params c.rcnt c.siocnt) (hactive : c.activeDriver = slotOf c.mode)
    (halive : c.alive = s.ctx.alive) : Settled (s.withCtx c) :=
  { hs with
    siocnt_masked := hsiocnt
    rcnt_low_kept := hrcnt
    mode_set := hmode ▸ deriveMode_ne_unset _ _ _
    mode_derived := hmode
    active_is_lookup := hactive
    sock_open := fun h => hs.sock_open (halive ▸ h) }

/-- Re-derivation writes the mode and, when it changes, the active driver (R106). -/
theorem ends_rederive {p : Params} {c : SioContext} {old new : LinkMode} :
    Ends r (rederiveActs p c old new ++ rest) s ↔ Ends r rest (s.withCtx { s.ctx with
      mode := new, activeDriver := if new = old then s.ctx.activeDriver else slotOf new }) := by
  unfold rederiveActs
  rw [List.cons_append]
  refine (ends_quiet rfl rfl).trans ?_
  split
  · rfl
  · rw [List.append_assoc, ends_unload, List.cons_append]
    exact (ends_quiet rfl rfl).trans ends_load

/-! ### The Mode Controller's requests -/

/-- A RCNT write keeps the lower four bits (R100). -/
theorem mergeRcnt_low (rcnt value : Word) : mergeRcnt rcnt value &&& rcntKeepMask = rcnt &&& rcntKeepMask := by
  rw [mergeRcnt, BitVec.and_or_distrib_right, BitVec.and_assoc, BitVec.and_assoc, BitVec.and_self, BitVec.not_and_self]
  simp

/-- What WSIOCNT stores has no other bits (R101). -/
theorem keepModeBits_masked (value : Word) : keepModeBits value &&& ~~~siocntModeMask = 0 := by
  rw [keepModeBits, BitVec.and_assoc, BitVec.and_not_self]
  simp

/-- A new value of the control registers and the re-derivation it brings leave clauses (a) to (d) and R107 true (R106). -/
theorem rederive_ends (hs : Settled s) {rcnt siocnt : Word} (hsiocnt : siocnt &&& ~~~siocntModeMask = 0)
    (hrcnt : rcnt &&& rcntKeepMask = s.ctx.rcnt &&& rcntKeepMask) (hrest : ∀ t, Settled t → Ends r rest t) :
    Ends r (rederiveActs s.params s.ctx s.ctx.mode (deriveMode s.params rcnt siocnt) ++ rest)
      (s.withCtx { s.ctx with rcnt := rcnt, siocnt := siocnt }) := by
  rw [ends_rederive]
  refine hrest _ (hs.withCtx hsiocnt (hrcnt.trans hs.rcnt_low_kept) rfl ?_ rfl)
  dsimp only [State.withCtx_ctx]
  split
  · next hsame => rw [hs.active_is_lookup, hsame]
  · rfl

theorem wrcnt_ends (hs : Settled s) (value : Word) : Ends true (wrcntActs value s) s := by
  unfold wrcntActs
  dsimp only
  rw [List.cons_append, ends_quiet rfl rfl]
  refine rederive_ends hs hs.siocnt_masked (mergeRcnt_low _ _) fun t ht => ?_
  split
  · exact ends_forward.mpr ht
  · exact ends_nil.mpr ht

/-- The lines of WSIOCNT before the claimant or the quirk (R101). -/
theorem siocnt_change_ends (hs : Settled s) (value : Word) (hrest : ∀ t, Settled t → Ends r rest t) :
    Ends r ((if modeBitsChanged s.ctx.siocnt value then
      .setSiocnt (keepModeBits value) :: rederiveActs s.params s.ctx s.ctx.mode (modeAfterSiocnt value s) else []) ++ rest) s := by
  split
  · next hchanged =>
    rw [List.cons_append, ends_quiet rfl rfl, modeAfterSiocnt, if_pos hchanged]
    exact rederive_ends hs (keepModeBits_masked value) rfl hrest
  · exact hrest s hs

theorem wsiocnt_ends (hs : Settled s) (value : Word) : Ends true (wsiocntActs value s) s := by
  refine siocnt_change_ends hs value fun t ht => ?_
  split
  · exact ends_forward.mpr ht
  · exact ends_quirk.mpr ht

theorem reset_ends (hs : Settled s) : Ends true (resetActs s) s := by
  unfold resetActs
  rw [ends_unload, ends_quiet rfl rfl, ends_quiet rfl rfl, ends_quiet rfl rfl, ends_quiet rfl rfl,
    ← List.append_nil (rederiveActs ..), ends_rederive, ends_nil]
  exact hs.withCtx (by simp [Act.apply]) rfl rfl (if_neg (deriveMode_ne_unset _ _ _)) rfl

theorem wother_ends (hs : Settled s) (off value : Word) : Ends true (wotherActs off value s) s := by
  unfold wotherActs
  split
  · exact ends_forward.mpr hs
  · exact ends_setOut.mpr (ends_nil.mpr hs)

/-- The lines after the call of Init: they pass an answer of success on, and end the request on a failure (R110). -/
theorem afterInit_ends (hs : Settled s) {b : Bool} {e : Event} (he : e.silent = true) (hrest : r = true → Ends r rest s) :
    Ends r ((if b then [.callIfFailed e] else []) ++ [.emitIfFailed (.log .initFailed), .returnIfFailed] ++ rest) s := by
  rw [List.append_assoc]
  cases r with
  | true =>
    have hlog : Ends true ([.emitIfFailed (.log .initFailed), .returnIfFailed] ++ rest) s :=
      (ends_quiet rfl rfl).mpr ((ends_quiet rfl rfl).mpr (hrest rfl))
    cases b with
    | true => exact (ends_quiet rfl rfl).mpr hlog
    | false => exact hlog
  | false =>
    have hlog : Ends false ([.emitIfFailed (.log .initFailed), .returnIfFailed] ++ rest) s :=
      (ends_quiet rfl rfl).mpr ((ends_return rfl rfl).mpr (hs.of_alike (alike_emit (by simp) s)))
    cases b with
    | true => exact (ends_silent rfl he).mpr hlog
    | false => exact hlog

theorem initActs_ends (hs : Settled s) {p : Params} {d : Handle} (hrest : Ends true rest s) :
    Ends true (initActs p d ++ rest) s := by
  unfold initActs
  rw [List.cons_append, ends_emit rfl]
  split
  · refine (ends_wait (e := .init d) rfl).mpr fun x => ?_
    refine afterInit_ends (hs.of_alike (alike_emit (by simp) s)) rfl fun hok => ?_
    rw [hok]
    exact hrest.of_alike (alike_emit (by simp) s)
  · exact hrest

theorem ends_retire {s₀ : State} {k : Slot} : Ends r (retireActs s₀ k ++ rest) s ↔ Ends r rest s := by
  unfold retireActs
  rw [List.append_assoc]
  split
  · exact ends_unload.trans ends_deinit
  · exact ends_deinit

/-- A slot that takes another driver, and that becomes the active one if it is the mode's (R110). -/
theorem installActs_ends (hs : Settled s) (k : Slot) (d : Option Handle) : Ends true (installActs s k d) s := by
  have hslot : Settled (s.withCtx (s.ctx.setSlot k d)) := by
    apply hs.withCtx <;> simp [hs.siocnt_masked, hs.rcnt_low_kept, hs.active_is_lookup, ← hs.mode_derived]
  unfold installActs
  rw [ends_quiet rfl rfl]
  split
  · next hactive =>
    have hk : slotOf s.ctx.mode = some k := by simpa [slotActive] using hactive
    rw [ends_quiet rfl rfl, ← List.append_nil (loadActs ..), ends_load, ends_nil]
    apply hslot.withCtx <;> simp [Act.apply, hs.siocnt_masked, hs.rcnt_low_kept, hk, ← hs.mode_derived]
  · exact ends_nil.mpr hslot

theorem setdrv_ends (hs : Settled s) (code : BitVec 3) (handle : Handle) : Ends true (setdrvActs code handle s) s := by
  unfold setdrvActs
  split
  · exact (ends_emit rfl).mpr (ends_nil.mpr hs)
  · next k _ =>
    rw [List.append_assoc, ends_retire]
    split
    · exact initActs_ends hs (installActs_ends hs k _)
    · exact installActs_ends hs k _

/-! ### Handles and the socket -/

/-- The socket's close is heard: the handle goes from the socket to the history, and has been counted already. -/
theorem Settled.emit_sockClose (hs : Settled s) {h : SockHandle} (hsock : s.relay.sock = some h) :
    Settled (s.emit (.sockClose h)) :=
  { hs with
    handles_counted := by
      rintro k (hk | hk)
      · exact hs.handles_counted k (.inl hk)
      · rcases List.mem_append.mp hk with hk | hk
        · exact hs.handles_counted k (.inr hk)
        · cases List.mem_singleton.mp hk
          exact hs.handles_counted h (.inl hsock) }

/-- One more connect counted leaves every former handle counted. -/
theorem Settled.count_connect (hs : Settled s) : Settled (s.withConnects (s.connects + 1)) :=
  { hs with handles_counted := fun k hk => Nat.lt_succ_of_lt (hs.handles_counted k hk) }

/-- What a request owes the invariant when it writes the relay alone and leaves it in Idle: the buffer's bound (e) and that
the socket's handle has been counted. -/
theorem Settled.withRelay_idle {q : RelayState} (hs : Settled s) (hidle : q.tmode = .idle) (hbuf : q.buf.length ≤ 255)
    (hsock : ∀ h, q.sock = some h → h.serial < s.connects) : Settled (s.withRelay q) :=
  { hs with
    cursor_le := hbuf
    code_in_range := by simp [hidle]
    tmode_reachable := by simp [hidle]
    sock_open := by simp [hidle]
    handles_counted := fun k hk => hk.elim (hsock k) fun hk => hs.handles_counted k (.inr hk)
    out_below := by simp [hidle]
    in_below := by simp [hidle] }

theorem Settled.sock_counted (hs : Settled s) : ∀ h, s.relay.sock = some h → h.serial < s.connects :=
  fun h hh => hs.handles_counted h (.inl hh)

theorem Settled.toIdle (hs : Settled s) : Settled (s.withRelay { s.relay with tmode := .idle }) :=
  hs.withRelay_idle rfl hs.cursor_le hs.sock_counted

/-- The answer of a connect, taken in Idle. -/
theorem Settled.useConnect (hs : Settled s) (hidle : s.relay.tmode = .idle) (x : Answer) : Settled (s.useConnect x) := by
  rcases useConnect_cases s x with ⟨-, h⟩ | ⟨-, h⟩ <;> rw [h]
  · exact hs
  · refine hs.count_connect.withRelay_idle hidle hs.cursor_le fun k hk => ?_
    cases hk
    exact Nat.lt_succ_self s.connects

/-- A block that is destroyed may have any transfer mode without a socket (R117, log 27). -/
theorem Settled.destroyed (hs : Settled s) (q : Option SockHandle) (hq : ∀ h, q = some h → s.relay.sock = some h) :
    Settled ((s.withRelay { s.relay with sock := q }).withCtx { s.ctx with alive := false }) :=
  { hs with
    sock_open := nofun
    handles_counted := fun k hk => hs.handles_counted k (hk.imp_left (hq k)) }

/-- Closing the socket: the one call whose event the invariant hears (R117, R196). -/
theorem ends_close {h : SockHandle} : Ends r (.call (.sockClose h) :: .setSock none :: rest) s ↔
    Ends r rest ((s.emit (.sockClose h)).withRelay { s.relay with sock := none }) :=
  (ends_wait (e := .sockClose h) rfl).trans
    ⟨fun hall => (ends_quiet rfl rfl).mp (hall {}), fun hend _ => (ends_quiet rfl rfl).mpr hend⟩

theorem destroy_ends (hs : Settled s) : Ends true (destroyActs s) s := by
  unfold destroyActs
  simp only [List.flatMap_cons, List.flatMap_nil, List.append_nil, List.append_assoc]
  rw [ends_unload, ends_deinit, ends_deinit, ends_deinit]
  split
  · next h hsock =>
    exact ends_close.mpr ((ends_quiet rfl rfl).mpr (ends_nil.mpr ((hs.emit_sockClose hsock).destroyed none nofun)))
  · exact (ends_quiet rfl rfl).mpr (ends_nil.mpr (hs.destroyed s.relay.sock fun _ => id))

/-! ### The relay commands, dispatched in Idle (R190) -/

/-- Send is entered with a socket and nothing sent yet (R192). -/
theorem cmdSend_ends (hs : Settled s) : Ends r (cmdSendActs s) (s.withRelay { s.relay with tmode := .idle }) := by
  unfold cmdSendActs
  split
  · next hpre =>
    obtain ⟨-, hsock⟩ := Bool.and_eq_true_iff.mp hpre
    rw [ends_quiet rfl rfl, ends_quiet rfl rfl, ends_silent (e := .sockSend (sendHeader s.relay.buf)) rfl rfl,
      ends_quiet rfl rfl, ends_quiet rfl rfl, ends_nil]
    exact
      { hs with
        code_in_range := nofun
        tmode_reachable := ⟨nofun, nofun, nofun⟩
        sock_open := fun _ _ => Option.isSome_iff_ne_none.mp hsock
        out_below := fun _ => by simp [Act.apply]
        in_below := nofun }
  · exact ends_nil.mpr hs.toIdle

/-- Recv is entered with a socket and nothing received yet (R193). -/
theorem cmdRecv_ends (hs : Settled s) : Ends r (cmdRecvActs s) (s.withRelay { s.relay with tmode := .idle }) := by
  unfold cmdRecvActs
  split
  · next hsock =>
    rw [ends_quiet rfl rfl, ends_quiet rfl rfl, ends_nil]
    exact
      { hs with
        code_in_range := nofun
        tmode_reachable := ⟨nofun, nofun, nofun⟩
        sock_open := fun _ _ => Option.isSome_iff_ne_none.mp hsock
        out_below := nofun
        in_below := fun _ => by simp [Act.apply] }
  · exact ends_nil.mpr hs.toIdle

/-- Connect passes through Estab at once (R195). -/
theorem estab_idle_ends (hs : Settled s) : Ends r [.setTmode .estab, .setTmode .idle] s :=
  (ends_quiet rfl rfl).mpr ((ends_quiet rfl rfl).mpr (ends_nil.mpr hs.toIdle))

/-- A connect that succeeds gets the serial that is counted with it (R195, R263). -/
theorem cmdConnect_ends (hs : Settled s) : Ends r (cmdConnectActs s) (s.withRelay { s.relay with tmode := .idle }) := by
  unfold cmdConnectActs
  split
  · have hstored : Settled (s.withRelay { s.relay with
        tmode := .idle, pendAddr := field32 s.relay.buf, pendPort := field16 s.relay.buf }) :=
      hs.withRelay_idle rfl hs.cursor_le hs.sock_counted
    have hcalled := hstored.of_alike
      (alike_emit (e := .sockConnect s.params.connectAddr s.params.connectPort) (by simp) _)
    rw [ends_quiet rfl rfl, ends_quiet rfl rfl,
      ends_wait (e := .sockConnect s.params.connectAddr s.params.connectPort) rfl]
    exact fun x => estab_idle_ends (hcalled.useConnect rfl x)
  · exact ends_nil.mpr hs.toIdle

theorem cmdDisconnect_ends (hs : Settled s) :
    Ends r (cmdDisconnectActs s) (s.withRelay { s.relay with tmode := .idle }) := by
  unfold cmdDisconnectActs
  split
  · next h hsock => exact ends_close.mpr (ends_nil.mpr ((hs.emit_sockClose hsock).withRelay_idle rfl hs.cursor_le nofun))
  · exact ends_nil.mpr hs.toIdle

theorem dispatch_ends (hs : Settled s) : Ends r (dispatchActs s) s := by
  unfold dispatchActs
  rw [ends_quiet rfl rfl]
  split
  · next c _ =>
    cases c with
    | send => exact cmdSend_ends hs
    | recv => exact cmdRecv_ends hs
    | connect => exact cmdConnect_ends hs
    | disconnect => exact cmdDisconnect_ends hs
    | duplex | dns => exact ends_nil.mpr hs.toIdle
  · exact ends_nil.mpr hs.toIdle

/-! ### The data register's requests -/

/-- What a new command buffer owes the invariant: its bound (e) and, in Parse, the range of its code (f). -/
theorem Settled.withBuf {buf : List Byte} (hs : Settled s) (hlen : buf.length ≤ 255)
    (hcode : 1 ≤ buf.length → 2 ≤ (bufByte buf 0).toNat ∧ (bufByte buf 0).toNat ≤ 7) :
    Settled (s.withRelay { s.relay with buf := buf }) :=
  { hs with cursor_le := hlen, code_in_range := fun _ => hcode }

theorem cancel_ends (hs : Settled s) : Ends r cancelActs s :=
  (ends_quiet rfl rfl).mpr (ends_nil.mpr hs.toIdle)

theorem code_ends (hs : Settled s) {code : Byte} (hlow : 2 ≤ code.toNat) (hhigh : code.toNat ≤ 7) :
    Ends r (codeActs code) s :=
  (ends_quiet rfl rfl).mpr (ends_nil.mpr (hs.withBuf (by simp) fun _ => ⟨hlow, hhigh⟩))

theorem start_ends (hs : Settled s) : Ends r startActs s := by
  unfold startActs
  rw [ends_quiet rfl rfl, ends_quiet rfl rfl, ends_nil]
  exact
    { hs with
      cursor_le := Nat.zero_le _
      code_in_range := nofun
      tmode_reachable := ⟨nofun, nofun, nofun⟩
      sock_open := nofun
      out_below := nofun
      in_below := nofun }

theorem overflow_ends (hs : Settled s) : Ends r overflowActs s := by
  unfold overflowActs
  rw [ends_quiet rfl rfl, ends_quiet rfl rfl, ends_nil]
  exact hs.withRelay_idle rfl (Nat.zero_le _) hs.sock_counted

/-- An appended byte is not the first one, and there is room for it (R163). -/
theorem append_ends (hs : Settled s) (hparse : s.relay.tmode = .parse) (hpos : s.relay.cursor ≠ 0)
    (hroom : s.relay.cursor < 255) (b : Byte) : Ends r (appendActs b s) s := by
  refine (ends_quiet rfl rfl).mpr (ends_nil.mpr (hs.withBuf (by simpa using hroom) fun _ => ?_))
  have hpos : 1 ≤ s.relay.cursor := Nat.one_le_iff_ne_zero.mpr hpos
  have hfirst : bufByte (s.relay.buf ++ [b]) 0 = bufByte s.relay.buf 0 := List.getD_append _ _ _ _ hpos
  exact hfirst ▸ hs.code_in_range hparse hpos

/-- Where the code is due, the table's first four bytes cancel, the next six are codes, and any other is dropped (R74). -/
theorem firstByte_ends (hs : Settled s) (b : Byte) : Ends r (writeRowActs (firstByteRow b) b s) s := by
  unfold firstByteRow
  iterate 4
    refine iteInduction (motive := fun row => Ends r (writeRowActs row b s) s) (fun _ => cancel_ends hs) fun _ => ?_
  iterate 6
    refine iteInduction (motive := fun row => Ends r (writeRowActs row b s) s)
      (fun _ => code_ends hs (by decide) (by decide)) fun _ => ?_
  exact ends_nil.mpr hs

/-- A byte sent either completes the phase or leaves the count below the length (R222). -/
theorem payloadOut_ends (hs : Settled s) (hsend : s.relay.tmode = .send) (b : Byte) : Ends r (payloadOutActs b s) s := by
  unfold payloadOutActs
  rw [List.cons_append, ends_silent (e := .sockSend [b]) rfl rfl, List.cons_append, List.nil_append, ends_quiet rfl rfl]
  split
  · exact (ends_quiet rfl rfl).mpr (ends_nil.mpr (hs.withRelay_idle rfl hs.cursor_le hs.sock_counted))
  · next hmore =>
    exact ends_nil.mpr
      { hs with
        out_below := fun _ => lt_max_of_lt_left (BitVec.lt_def.mp (BitVec.not_le.mp hmore))
        in_below := fun hrecv => absurd (hsend.symm.trans hrecv) nofun }

/-- A byte received either completes the phase or leaves the count below the length (R224). -/
theorem payloadIn_ends (hs : Settled s) (hrecv : s.relay.tmode = .recv) : Ends r (payloadInActs s) s := by
  unfold payloadInActs
  rw [List.cons_append, ends_silent (e := .sockRecv) rfl rfl, List.cons_append, List.nil_append, ends_quiet rfl rfl]
  split
  · exact (ends_quiet rfl rfl).mpr (ends_nil.mpr (hs.withRelay_idle rfl hs.cursor_le hs.sock_counted))
  · next hmore =>
    exact ends_nil.mpr
      { hs with
        out_below := fun hsend => absurd (hrecv.symm.trans hsend) nofun
        in_below := fun _ => lt_max_of_lt_left (BitVec.lt_def.mp (BitVec.not_le.mp hmore)) }

theorem dataWrite_ends (hs : Settled s) (b : Byte) : Ends r (dataWriteActs b s) s := by
  obtain ⟨hestab, hsendRecv, hreserved⟩ := hs.tmode_reachable
  unfold dataWriteActs selectWrite
  cases ht : s.relay.tmode with
  | idle =>
    simp only [writeRow]
    split
    · exact start_ends hs
    · exact ends_nil.mpr hs
  | parse =>
    simp only [writeRow]
    split_ifs with hzero hterm hroom
    · exact firstByte_ends hs b
    · exact dispatch_ends hs
    · exact append_ends hs ht hzero hroom b
    · exact overflow_ends hs
  | send => exact payloadOut_ends hs ht b
  | recv => exact ends_nil.mpr hs
  | estab => exact absurd ht hestab
  | sendRecv => exact absurd ht hsendRecv
  | reserved => exact absurd ht hreserved

theorem dataRead_ends (hs : Settled s) : Ends r (dataReadActs s) s := by
  obtain ⟨hestab, hsendRecv, hreserved⟩ := hs.tmode_reachable
  have hnodata : Ends r (nodataActs s) s := ends_setOut.mpr (ends_nil.mpr hs)
  unfold dataReadActs selectRead
  cases ht : s.relay.tmode with
  | idle | parse | send => exact hnodata
  | recv => exact payloadIn_ends hs ht
  | estab => exact absurd ht hestab
  | sendRecv => exact absurd ht hsendRecv
  | reserved => exact absurd ht hreserved

/-! ### Every step -/

/-- Every request, from a state in which the invariant holds, ends in one. -/
theorem RequestLines.ends {i : Instr} {acts : State → List Act} (h : RequestLines i acts) (hs : Settled s) :
    Ends true (acts s) s := by
  cases h with
  | wrcnt value => exact wrcnt_ends hs value
  | wsiocnt value => exact wsiocnt_ends hs value
  | wdata value => exact dataWrite_ends hs _
  | rdata => exact dataRead_ends hs
  | wother off value => exact wother_ends hs off value
  | reset => exact reset_ends hs
  | setdrv code handle => exact setdrv_ends hs code handle
  | destroy => exact destroy_ends hs

theorem exec_decode_inv (hs : Settled s) {w : ReqWord} {t : State} (h : exec (decode w) s = .next t) : Inv t := by
  rcases decode_lines_or_refused w with ⟨acts, hacts⟩ | ⟨why, hwhy⟩
  · rw [hacts.exec_eq] at h
    exact run_inv ((hacts.ends hs).of_alike (alike_withOut s none)) (perform_next h).2
  · rw [hwhy] at h; cases h

end Sys2Proof.Machine

namespace Sys2Proof.Machine

open Sys2Proof

/-- Settles O15: a step resumes a held request, whose every completion is `Settled` (`resume_inv`), or performs a request
from a `Settled` state (`RequestLines.ends`). -/
theorem invariantKeptByEveryStep : Obligations.InvariantKeptByEveryStep := by
  intro s t hs hstep
  rcases step_next hstep with ⟨e, r, acts, hp, hresume⟩ | ⟨hp, w, ws, -, hexec⟩ | ⟨-, rfl⟩
  · exact resume_inv hp hs hresume
  · exact exec_decode_inv (((inv_idle_iff hp).mp hs).of_alike (alike_withPort s ws)) hexec
  · exact hs

/-- Settles O16: at reset nothing has been connected and the relay is in Idle; the mode is the one that the default
parameters map the selector 8 to. -/
theorem invariantAtReset : Obligations.InvariantAtReset :=
  { siocnt_masked := by decide
    rcnt_low_kept := by decide
    mode_set := by decide
    mode_derived := by decide
    active_is_lookup := by decide
    cursor_le := by decide
    code_in_range := nofun
    tmode_reachable := by decide
    sock_open := nofun
    handles_counted := by rintro h (hs | hs) <;> cases hs
    out_below := nofun
    in_below := nofun : Settled State.reset }

end Sys2Proof.Machine
end

section
/-! The requester's side of 20_memory.md: which request a step performs, and what the requests of the Mode Controller leave to
the relay. -/

namespace Sys2Proof.Machine

open Sys2Proof

/-! ### The request a step performs (R60, R70) -/

/-- Between requests, the word first at the port is taken from it, decoded and performed. -/
theorem step_request {s : State} {w : ReqWord} {ws : List ReqWord} (hp : s.pending = .idle) (hport : s.port = w :: ws) :
    step s = exec (decode w) (s.withPort ws) := by
  rw [step, hp]
  simp only [takeRequest, hport]
  rfl

/-- A word that is presented stands first at the port as itself. -/
theorem withFetchWord_port (s : State) (nbits : Nat) (w : ReqWord) :
    (s.withFetchWord nbits w.toNat).port = w :: s.port := by
  show BitVec.ofNat 36 w.toNat :: s.port = w :: s.port
  rw [BitVec.ofNat_toNat, BitVec.setWidth_eq]

/-- Settles O9: both clauses are `step_request`, the second at the state that `withFetchWord` leaves. -/
theorem stepRunsTheDecodedRequest : Obligations.StepRunsTheDecodedRequest :=
  ⟨fun _ _ _ hp hport => step_request hp hport,
    fun s nbits w => step_request (s := s.withFetchWord nbits w.toNat) rfl (withFetchWord_port s nbits w)⟩

/-! ### Runs that commute with a change of the state -/

/-- The change `f` keeps what a run looks at, the replies and what is pending, and commutes with the bookkeeping of every
run. -/
structure Unobserved (f : State → State) : Prop where
  replies_eq : ∀ s, (f s).replies = s.replies
  pending_eq : ∀ s, (f s).pending = s.pending
  emit_comm : ∀ s e, (f s).emit e = f (s.emit e)
  withOut_comm : ∀ s v, (f s).withOut v = f (s.withOut v)
  withPending_comm : ∀ s p, (f s).withPending p = f (s.withPending p)
  withReplies_comm : ∀ s rs, (f s).withReplies rs = f (s.withReplies rs)

/-- The act does the same before the change `f` as after it, and so does the answer to the call it makes. -/
structure Act.CommutesWith (f : State → State) (a : Act) : Prop where
  apply_comm : ∀ r s, a.apply r (f s) = f (a.apply r s)
  answer_comm : ∀ r e, a.waitsOn r = some e → ∀ s x, (f s).useAnswer e x = f (s.useAnswer e x)

section

variable {f : State → State}

theorem run_commutes (hf : Unobserved f) {acts : List Act} (hacts : ∀ a ∈ acts, a.CommutesWith f) (r : Bool) (s : State) :
    run r acts (f s) = mapNext f (run r acts s) := by
  induction acts generalizing r s with
  | nil => exact congrArg _ (hf.withPending_comm s .idle)
  | cons a rest ih =>
    obtain ⟨ha, hrest⟩ := List.forall_mem_cons.mp hacts
    rw [run, run]
    cases hw : a.waitsOn r with
    | none =>
      cases hret : a.returns r with
      | true => exact congrArg _ (hf.withPending_comm s .idle)
      | false => simp only [ha.apply_comm, ih hrest, Bool.false_eq_true, if_false]
    | some e =>
      simp only [hf.replies_eq, hf.emit_comm]
      cases s.replies with
      | nil => exact congrArg _ (hf.withPending_comm _ _)
      | cons y ys =>
        cases y with
        | request => rfl
        | answer x => simp only [hf.withReplies_comm, ha.answer_comm r e hw, ih hrest]

theorem perform_commutes (hf : Unobserved f) {acts : List Act} (hacts : ∀ a ∈ acts, a.CommutesWith f) {s : State}
    (halive : (f s).ctx.alive = s.ctx.alive) : perform acts (f s) = mapNext f (perform acts s) := by
  unfold perform
  rw [halive, hf.pending_eq, hf.withOut_comm, run_commutes hf hacts]
  split_ifs <;> rfl

end

/-! ### The relay set aside (R65) -/

theorem unobserved_withRelay (q : RelayState) : Unobserved (·.withRelay q) where
  replies_eq _ := rfl
  pending_eq _ := rfl
  emit_comm _ _ := rfl
  withOut_comm _ _ := rfl
  withPending_comm _ _ := rfl
  withReplies_comm _ _ := rfl

/-- The answer to the call leaves the relay alone: only a connect's goes there (R195). -/
def Event.sparesRelay : Event → Bool
  | .sockConnect _ _ => false
  | _ => true

/-- The act neither writes a field of the relay nor makes a call whose answer goes there. -/
def Act.sparesRelay : Act → Bool
  | .call e => e.sparesRelay
  | .callIfFailed e => e.sparesRelay
  | .setTmode _ | .setBuf _ | .setCrc _ | .setLength _ | .setInCount _ | .setOutCount _ | .setPendAddr _ | .setPendPort _
  | .setSock _ => false
  | _ => true

theorem useAnswer_withRelay {e : Event} (he : e.sparesRelay = true) (s : State) (q : RelayState) (x : Answer) :
    (s.withRelay q).useAnswer e x = (s.useAnswer e x).withRelay q := by
  cases e with
  | sockConnect => cases he
  | drvWrite d reg v => cases reg <;> rfl
  | _ => rfl

theorem apply_withRelay {a : Act} (ha : a.sparesRelay = true) (r : Bool) (s : State) (q : RelayState) :
    a.apply r (s.withRelay q) = (a.apply r s).withRelay q := by
  cases a with
  | setTmode | setBuf | setCrc | setLength | setInCount | setOutCount | setPendAddr | setPendPort | setSock => cases ha
  | emitIfFailed e => cases r <;> rfl
  | _ => rfl

/-- The call that an act waits on spares the relay if the act does. -/
theorem waitsOn_sparesRelay {a : Act} (ha : a.sparesRelay = true) {r : Bool} {e : Event} (hw : a.waitsOn r = some e) :
    e.sparesRelay = true := by
  cases a with
  | call e' => cases hw; exact ha
  | callIfFailed e' =>
    cases r with
    | true => cases hw
    | false => cases hw; exact ha
  | _ => cases hw

theorem commutesWith_withRelay {a : Act} (ha : a.sparesRelay = true) (q : RelayState) : a.CommutesWith (·.withRelay q) where
  apply_comm r s := apply_withRelay ha r s q
  answer_comm _ _ hw s x := useAnswer_withRelay (waitsOn_sparesRelay ha hw) s q x

/-- A request whose lines are the same whatever the relay holds, and all spare it, leaves any relay as it finds it. -/
theorem RequestLines.exec_withRelay {i : Instr} {acts : State → List Act} (h : RequestLines i acts) {s : State}
    {q : RelayState} (hread : acts (s.withRelay q) = acts s) (hwrite : (acts s).all Act.sparesRelay = true) :
    exec i (s.withRelay q) = mapNext (·.withRelay q) (exec i s) := by
  rw [h.exec_eq, h.exec_eq, hread]
  exact perform_commutes (unobserved_withRelay q)
    (fun a ha => commutesWith_withRelay (List.all_eq_true.mp hwrite a ha) q) rfl

/-! ### The lines of the Mode Controller's requests and of WOTHER spare the relay -/

theorem hook_sparesRelay (b : Bool) {e : Event} (he : e.sparesRelay = true) : (hook b e).all Act.sparesRelay = true := by
  cases b with
  | false => rfl
  | true => simp [hook, Act.sparesRelay, he]

@[simp] theorem unloadActs_sparesRelay (p : Params) (d : Option Handle) : (unloadActs p d).all Act.sparesRelay = true := by
  cases d with
  | none => rfl
  | some d => exact hook_sparesRelay _ rfl

@[simp] theorem loadActs_sparesRelay (p : Params) (d : Option Handle) : (loadActs p d).all Act.sparesRelay = true := by
  cases d with
  | none => rfl
  | some d => exact hook_sparesRelay _ rfl

@[simp] theorem deinitActs_sparesRelay (p : Params) (d : Option Handle) : (deinitActs p d).all Act.sparesRelay = true := by
  cases d with
  | none => rfl
  | some d => exact hook_sparesRelay _ rfl

@[simp] theorem rederiveActs_sparesRelay (p : Params) (c : SioContext) (old new : LinkMode) :
    (rederiveActs p c old new).all Act.sparesRelay = true := by
  unfold rederiveActs
  split
  · rfl
  · simp [Act.sparesRelay]

@[simp] theorem forwardActs_sparesRelay (d : Handle) (reg : RegId) (v : Word) :
    (forwardActs d reg v).all Act.sparesRelay = true := rfl

@[simp] theorem quirkActs_sparesRelay (p : Params) (m : LinkMode) (v : Word) :
    (quirkActs p m v).all Act.sparesRelay = true := by
  unfold quirkActs
  split <;> rfl

@[simp] theorem retireActs_sparesRelay (s : State) (k : Slot) : (retireActs s k).all Act.sparesRelay = true := by
  unfold retireActs
  split <;> simp

@[simp] theorem initActs_sparesRelay (p : Params) (d : Handle) : (initActs p d).all Act.sparesRelay = true := by
  unfold initActs
  split_ifs <;> rfl

@[simp] theorem installActs_sparesRelay (s : State) (k : Slot) (d : Option Handle) :
    (installActs s k d).all Act.sparesRelay = true := by
  unfold installActs
  split <;> simp [Act.sparesRelay]

theorem wrcntActs_sparesRelay (value : Word) (s : State) : (wrcntActs value s).all Act.sparesRelay = true := by
  unfold wrcntActs
  dsimp only
  split <;> simp [Act.sparesRelay]

theorem wsiocntActs_sparesRelay (value : Word) (s : State) : (wsiocntActs value s).all Act.sparesRelay = true := by
  have hchange : (if modeBitsChanged s.ctx.siocnt value then .setSiocnt (keepModeBits value) ::
      rederiveActs s.params s.ctx s.ctx.mode (modeAfterSiocnt value s) else []).all Act.sparesRelay = true := by
    split
    · simp [Act.sparesRelay]
    · rfl
  unfold wsiocntActs
  dsimp only
  rw [List.all_append, hchange, Bool.true_and]
  split
  · exact forwardActs_sparesRelay _ _ _
  · exact quirkActs_sparesRelay _ _ _

theorem wotherActs_sparesRelay (off value : Word) (s : State) : (wotherActs off value s).all Act.sparesRelay = true := by
  unfold wotherActs
  split <;> rfl

theorem resetActs_sparesRelay (s : State) : (resetActs s).all Act.sparesRelay = true := by
  simp [resetActs, Act.sparesRelay]

theorem setdrvActs_sparesRelay (code : BitVec 3) (handle : Handle) (s : State) :
    (setdrvActs code handle s).all Act.sparesRelay = true := by
  unfold setdrvActs
  split
  · rfl
  · split <;> simp

/-- Settles O18: the lines of the five requests are computed from the parameters and the SIOContext alone, and none of them
touches the relay, so each request commutes with its replacement, held or not (`RequestLines.exec_withRelay`). -/
theorem controlRequestsIgnoreRelay : Obligations.ControlRequestsIgnoreRelay := fun s _ value off code handle =>
  ⟨(RequestLines.wrcnt value).exec_withRelay rfl (wrcntActs_sparesRelay value s),
    (RequestLines.wsiocnt value).exec_withRelay rfl (wsiocntActs_sparesRelay value s),
    (RequestLines.wother off value).exec_withRelay rfl (wotherActs_sparesRelay off value s),
    RequestLines.reset.exec_withRelay rfl (resetActs_sparesRelay s),
    (RequestLines.setdrv code handle).exec_withRelay rfl (setdrvActs_sparesRelay code handle s)⟩

end Sys2Proof.Machine
end

section
/-! Request words: what each value of `op` decodes to, and that decode and encode agree on the requests (30_encoding.md R70 to
R73, R83). -/

namespace Sys2Proof

section

variable (aux data : Word)

/-! ### One equation for each request kind (R71, R72) -/

@[simp] theorem decode_wrcnt : decode (requestWord 0x1 aux data) = .wrcnt data := by simp [decode]
@[simp] theorem decode_wsiocnt : decode (requestWord 0x2 aux data) = .wsiocnt data := by simp [decode]
@[simp] theorem decode_wdata : decode (requestWord 0x3 aux data) = .wdata data := by simp [decode]
@[simp] theorem decode_rdata : decode (requestWord 0x4 aux data) = .rdata := by simp [decode]
@[simp] theorem decode_wother : decode (requestWord 0x5 aux data) = .wother aux data := by simp [decode]
@[simp] theorem decode_reset : decode (requestWord 0x8 aux data) = .reset := by simp [decode]
@[simp] theorem decode_setdrv : decode (requestWord 0x9 aux data) = .setdrv (aux.extractLsb' 0 3) data := by simp [decode]
@[simp] theorem decode_destroy : decode (requestWord 0xA aux data) = .destroy := by simp [decode]
@[simp] theorem decode_reservedOp0 : decode (requestWord 0x0 aux data) = .reservedOp0 := by simp [decode]
@[simp] theorem decode_reservedOp6 : decode (requestWord 0x6 aux data) = .reservedOp6 := by simp [decode]
@[simp] theorem decode_reservedOp7 : decode (requestWord 0x7 aux data) = .reservedOp7 := by simp [decode]
@[simp] theorem decode_reservedOpB : decode (requestWord 0xB aux data) = .reservedOpB := by simp [decode]
@[simp] theorem decode_reservedOpC : decode (requestWord 0xC aux data) = .reservedOpC := by simp [decode]
@[simp] theorem decode_reservedOpD : decode (requestWord 0xD aux data) = .reservedOpD := by simp [decode]
@[simp] theorem decode_reservedOpE : decode (requestWord 0xE aux data) = .reservedOpE := by simp [decode]
@[simp] theorem decode_reservedOpF : decode (requestWord 0xF aux data) = .reservedOpF := by simp [decode]

end

/-- The three fields are all of a request word (R70). -/
theorem requestWord_fields (w : ReqWord) : requestWord (opField w) (auxField w) (dataField w) = w := by
  unfold requestWord opField auxField dataField
  iterate 2 rw [BitVec.extractLsb'_append_extractLsb'_eq_extractLsb' (by rfl)]
  exact BitVec.extractLsb'_eq_self

/-- Settles O1: each example is the word of its three fields. -/
theorem exampleWordsDecode : Obligations.ExampleWordsDecode :=
  ⟨decode_wrcnt 0x0000 0x8000, decode_wsiocnt 0x0000 0x4081, decode_wdata 0x0000 0x0089, decode_rdata 0x0000 0x0000,
    decode_wother 0x0140 0x0007, decode_reset 0x0000 0x0000, decode_setdrv 0x0003 0x0002, decode_setdrv 0xFFFB 0x0001,
    decode_destroy 0x0000 0x0000, decode_reservedOp6 0x0000 0x0000, decode_reservedOpF 0x1234 0x5678⟩

/-- Settles O2, an equation for each value of `op`. -/
theorem requestFieldsDecode : Obligations.RequestFieldsDecode :=
  ⟨fun w => (requestWord_fields w).symm, fun aux data =>
    ⟨decode_wrcnt aux data, decode_wsiocnt aux data, decode_wdata aux data, decode_rdata aux data, decode_wother aux data,
      decode_reset aux data, decode_setdrv aux data, decode_destroy aux data, decode_reservedOp0 aux data,
      decode_reservedOp6 aux data, decode_reservedOp7 aux data, decode_reservedOpB aux data, decode_reservedOpC aux data,
      decode_reservedOpD aux data, decode_reservedOpE aux data, decode_reservedOpF aux data⟩⟩

/-- Settles O3: the encoder writes the fields that the kind's equation reads; the mode code of a SETDRV comes back from the
lower three bits of `aux` (`code_of_aux`). -/
theorem requestsDecodeFromTheirWords : Obligations.RequestsDecodeFromTheirWords := by
  intro i hi
  cases i with
  | wrcnt value => exact ⟨_, rfl, decode_wrcnt _ _⟩
  | wsiocnt value => exact ⟨_, rfl, decode_wsiocnt _ _⟩
  | wdata value => exact ⟨_, rfl, decode_wdata _ _⟩
  | rdata => exact ⟨_, rfl, decode_rdata _ _⟩
  | wother off value => exact ⟨_, rfl, decode_wother _ _⟩
  | reset => exact ⟨_, rfl, decode_reset _ _⟩
  | setdrv code handle => exact ⟨_, rfl, by rw [decode_setdrv, code_of_aux]⟩
  | destroy => exact ⟨_, rfl, decode_destroy _ _⟩
  | reservedOp0 => exact ⟨_, rfl, decode_reservedOp0 _ _⟩
  | reservedOp6 => exact ⟨_, rfl, decode_reservedOp6 _ _⟩
  | reservedOp7 => exact ⟨_, rfl, decode_reservedOp7 _ _⟩
  | reservedOpB => exact ⟨_, rfl, decode_reservedOpB _ _⟩
  | reservedOpC => exact ⟨_, rfl, decode_reservedOpC _ _⟩
  | reservedOpD => exact ⟨_, rfl, decode_reservedOpD _ _⟩
  | reservedOpE => exact ⟨_, rfl, decode_reservedOpE _ _⟩
  | reservedOpF => exact ⟨_, rfl, decode_reservedOpF _ _⟩
  | _ => cases hi

end Sys2Proof
end

section
/-! Frames: the frame decoder reads back the bytes of every frame (30_encoding.md R76 to R78). -/

namespace Sys2Proof

theorem payloadFits_iff (ps : List Byte) : payloadFits ps = true ↔ ps.length ≤ 254 ∧ frameTerm ∉ ps := by
  simp [payloadFits]

/-- A payload for which there is room is read up to its terminator. -/
theorem takePayload_append {ps : List Byte} (hterm : frameTerm ∉ ps) (rest : List Byte) {room : Nat}
    (hroom : ps.length ≤ room) : takePayload room (ps ++ frameTerm :: rest) = .ok (ps, rest) := by
  induction ps generalizing room with
  | nil => cases room <;> simp [takePayload]
  | cons p ps ih =>
    obtain ⟨hp, hps⟩ := not_or.mp (List.mem_cons.not.mp hterm)
    obtain ⟨room, rfl⟩ := Nat.exists_eq_add_one_of_ne_zero (Nat.ne_zero_of_lt hroom)
    simp only [List.cons_append, takePayload, if_neg (Ne.symm hp), ih hps (Nat.le_of_succ_le_succ hroom)]

/-- Settles O5: 0x89 starts the frame, the code is a command's (`commandOf_code`), and the payload ends at the first
terminator (`takePayload_append`). -/
theorem framesDecodeFromTheirBytes : Obligations.FramesDecodeFromTheirBytes := by
  intro c ps rest hfits
  obtain ⟨hlen, hterm⟩ := (payloadFits_iff ps).mp hfits
  have hbytes : frameBytes c ps ++ rest = frameStart :: c.code :: (ps ++ frameTerm :: rest) := by simp [frameBytes]
  rw [hbytes, decodeFrame, if_pos rfl, takeCode, if_neg (firstByteRow_code c), commandOf_code]
  simp only [takePayload_append hterm rest hlen]

end Sys2Proof
end

section
/-! The rows of the data register's tables: the word of each, the row a word takes, and that a row does what its request does
(30_encoding.md R74, R75). -/

namespace Sys2Proof.Machine

open Sys2Proof

/-! ### The byte of a row, and its word -/

/-- The byte that the row writes: its own, or `b` where the row leaves it open (R74). -/
def byteOf (row : WriteRow) (b : Byte) : Byte := (rowByte row).getD b

theorem rowByte_byteOf (row : WriteRow) (b : Byte) : rowByte row = none ∨ rowByte row = some (byteOf row b) := by
  unfold byteOf
  cases rowByte row with
  | none => exact .inl rfl
  | some own => exact .inr rfl

/-- A row keeps no byte but the one that it leaves open. -/
theorem instr_byteOf (row : WriteRow) (b : Byte) : row.instr (byteOf row b) = row.instr b := by
  cases row <;> rfl

theorem encode_row (row : WriteRow) (b : Byte) : encode (row.instr b) = [dataWord (byteOf row b)] := by
  cases row <;> rfl

theorem encode_readRow (row : ReadRow) : encode row.instr = [readWord] := by
  cases row <;> rfl

/-- The second level of decoding reads a DATA write as the table's row (R74). -/
theorem decodeAt_dataWord (t : TMode) (cursor : Nat) (b : Byte) :
    decodeAt t cursor (dataWord b) = (writeRow t cursor b).instr b := by
  simp only [decodeAt, decode_dataWord, lowByte_zext16]

/-! ### The row a byte takes in Parse (R74) -/

theorem writeRow_code (b : Byte) : writeRow .parse 0 b = firstByteRow b := rfl

theorem writeRow_term {cursor : Nat} (h : 1 ≤ cursor) : writeRow .parse cursor frameTerm = .term := by
  simp only [writeRow, if_neg (Nat.ne_zero_of_lt h), if_true]

theorem writeRow_append {cursor : Nat} {b : Byte} (h : 1 ≤ cursor) (hroom : cursor ≤ 254) (hb : b ≠ frameTerm) :
    writeRow .parse cursor b = .append := by
  simp only [writeRow, if_neg (Nat.ne_zero_of_lt h), if_neg hb, if_pos (Nat.lt_succ_of_le hroom)]

theorem writeRow_overflow {cursor : Nat} {b : Byte} (hfull : 255 ≤ cursor) (hb : b ≠ frameTerm) :
    writeRow .parse cursor b = .overflow := by
  simp only [writeRow, if_neg (show cursor ≠ 0 by omega), if_neg hb, if_neg (Nat.not_lt.mpr hfull)]

/-- Settles O4: where the table lists the row, its byte takes that row. -/
theorem rowsDecodeFromTheirWords : Obligations.RowsDecodeFromTheirWords := by
  intro t cursor b row hwf hlisted
  suffices h : writeRow t cursor (byteOf row b) = row from
    ⟨_, encode_row row b, by rw [decodeAt_dataWord, h, instr_byteOf]⟩
  cases row with
  | start => cases hlisted; rfl
  | idleIgn => cases hlisted; exact if_neg (bne_iff_ne.mp hwf)
  | cancel00 | cancel01 | cancelFE | cancelFF | cmdSend | cmdRecv | cmdDuplex | cmdConnect | cmdDisconnect | cmdDns =>
    obtain ⟨rfl, rfl⟩ := hlisted; rfl
  | codeDrop =>
    obtain ⟨rfl, rfl⟩ := hlisted
    obtain ⟨hlow, hhigh⟩ := Bool.and_eq_true_iff.mp hwf
    exact (writeRow_code b).trans (codeDrop_of b (of_decide_eq_true hlow) (of_decide_eq_true hhigh))
  | term => obtain ⟨rfl, hpos⟩ := hlisted; exact writeRow_term hpos
  | append => obtain ⟨rfl, hpos, hroom⟩ := hlisted; exact writeRow_append hpos hroom (bne_iff_ne.mp hwf)
  | overflow => obtain ⟨rfl, hfull⟩ := hlisted; exact writeRow_overflow hfull (bne_iff_ne.mp hwf)
  | payloadOut | duplexOut => cases hlisted; rfl
  | xferIgn => rcases hlisted with rfl | rfl | rfl <;> rfl

/-! ### A DATA request and its row (R220, R221, log 14) -/

theorem exec_wdata_byte (b : Byte) (s : State) : exec (.wdata (zext16 b)) s = perform (dataWriteActs b s) s :=
  congrArg (fun b => perform (dataWriteActs b s) s) (lowByte_zext16 b)

theorem exec_readRow (row : ReadRow) (s : State) : exec row.instr s = performReadRow row (readRowActs row s) s := by
  cases row <;> rfl

/-- A row's own lines are those that the table gives where the state selects it, and elsewhere the row acts as its request. -/
theorem performWriteRow_eq_dataWrite (row : WriteRow) (b : Byte) (s : State) :
    performWriteRow row b (writeRowActs row b s) s = perform (dataWriteActs b s) s := by
  unfold performWriteRow
  split
  · next h => rw [dataWriteActs, h]
  · rfl

theorem performReadRow_eq_dataRead (row : ReadRow) (s : State) :
    performReadRow row (readRowActs row s) s = perform (dataReadActs s) s := by
  unfold performReadRow
  split
  · next h => rw [dataReadActs, h]
  · rfl

/-- In every state a row of the write table is the DATA write of its byte. -/
theorem exec_row_eq_wdata (row : WriteRow) (b : Byte) (s : State) :
    exec (row.instr b) s = exec (.wdata (zext16 (byteOf row b))) s := by
  rw [← instr_byteOf, exec_row (rowByte_byteOf row b), performWriteRow_eq_dataWrite, exec_wdata_byte]

/-- In every state a row of the read table is the DATA read. -/
theorem exec_readRow_eq_rdata (row : ReadRow) (s : State) : exec row.instr s = exec .rdata s :=
  (exec_readRow row s).trans (performReadRow_eq_dataRead row s)

/-- Settles O37: the row that a byte takes is about that byte (`writeRow_byte`), so it is performed with the byte written; the
meaning of WDATA has its value only by the low byte. -/
theorem dataRequestsTakeTheirRow : Obligations.DataRequestsTakeTheirRow := by
  refine ⟨fun value s => ?_, fun s => (exec_readRow_eq_rdata _ s).symm, fun value value' s h => ?_⟩
  · exact ((exec_row (writeRow_byte _ _ _) s).trans (performWriteRow_eq_dataWrite _ _ s)).symm
  · exact congrArg (fun b => perform (dataWriteActs b s) s) h

/-! ### The two levels of the opcode table -/

/-- An instruction is a request kind, a row of one of the data register's tables, or a whole frame. -/
theorem instr_cases (i : Instr) :
    i.isRequest = true ∨ (∃ (row : WriteRow) (b : Byte), i = row.instr b) ∨ (∃ row : ReadRow, i = row.instr) ∨
      ∃ (c : Command) (ps : List Byte), i = c.instr ps := by
  cases i with
  | wdataStart => exact .inr (.inl ⟨.start, 0, rfl⟩)
  | wdataIdleIgn b => exact .inr (.inl ⟨.idleIgn, b, rfl⟩)
  | wdataCancel00 => exact .inr (.inl ⟨.cancel00, 0, rfl⟩)
  | wdataCancel01 => exact .inr (.inl ⟨.cancel01, 0, rfl⟩)
  | wdataCancelFE => exact .inr (.inl ⟨.cancelFE, 0, rfl⟩)
  | wdataCancelFF => exact .inr (.inl ⟨.cancelFF, 0, rfl⟩)
  | wdataCmdSend => exact .inr (.inl ⟨.cmdSend, 0, rfl⟩)
  | wdataCmdRecv => exact .inr (.inl ⟨.cmdRecv, 0, rfl⟩)
  | wdataCmdDuplex => exact .inr (.inl ⟨.cmdDuplex, 0, rfl⟩)
  | wdataCmdConnect => exact .inr (.inl ⟨.cmdConnect, 0, rfl⟩)
  | wdataCmdDisconnect => exact .inr (.inl ⟨.cmdDisconnect, 0, rfl⟩)
  | wdataCmdDns => exact .inr (.inl ⟨.cmdDns, 0, rfl⟩)
  | wdataCodeDrop b => exact .inr (.inl ⟨.codeDrop, b, rfl⟩)
  | wdataTerm => exact .inr (.inl ⟨.term, 0, rfl⟩)
  | wdataAppend b => exact .inr (.inl ⟨.append, b, rfl⟩)
  | wdataOverflow b => exact .inr (.inl ⟨.overflow, b, rfl⟩)
  | wdataPayloadOut b => exact .inr (.inl ⟨.payloadOut, b, rfl⟩)
  | wdataDuplexOut b => exact .inr (.inl ⟨.duplexOut, b, rfl⟩)
  | wdataXferIgn b => exact .inr (.inl ⟨.xferIgn, b, rfl⟩)
  | rdataReadNodata => exact .inr (.inr (.inl ⟨.nodata, rfl⟩))
  | rdataPayloadIn => exact .inr (.inr (.inl ⟨.payloadIn, rfl⟩))
  | rdataDuplexIn => exact .inr (.inr (.inl ⟨.duplexIn, rfl⟩))
  | rdataReadEstab => exact .inr (.inr (.inl ⟨.estab, rfl⟩))
  | cmdSend ps => exact .inr (.inr (.inr ⟨.send, ps, rfl⟩))
  | cmdRecv ps => exact .inr (.inr (.inr ⟨.recv, ps, rfl⟩))
  | cmdDuplex ps => exact .inr (.inr (.inr ⟨.duplex, ps, rfl⟩))
  | cmdConnect ps => exact .inr (.inr (.inr ⟨.connect, ps, rfl⟩))
  | cmdDisconnect ps => exact .inr (.inr (.inr ⟨.disconnect, ps, rfl⟩))
  | cmdDns ps => exact .inr (.inr (.inr ⟨.dns, ps, rfl⟩))
  | _ => exact .inl rfl

/-- A frame is three bytes more than its payload: 0x89, the code and the terminator (R76). -/
theorem frameBytes_length (c : Command) (ps : List Byte) : (frameBytes c ps).length = ps.length + 3 := by
  simp [frameBytes]

/-- Settles O38: a request comes back from its word (`requestsDecodeFromTheirWords`), a row is the DATA request that its word
decodes to, and a frame has more words than one. -/
theorem rowsAreTheirRequests : Obligations.RowsAreTheirRequests := by
  intro i w s hword
  rcases instr_cases i with hi | ⟨row, b, rfl⟩ | ⟨row, rfl⟩ | ⟨c, ps, rfl⟩
  · obtain ⟨w', hword', hdecode⟩ := requestsDecodeFromTheirWords i hi
    cases hword.symm.trans hword'
    rw [hdecode]
  · cases (encode_row row b).symm.trans hword
    rw [decode_dataWord, exec_row_eq_wdata]
  · cases (encode_readRow row).symm.trans hword
    rw [decode_readWord, exec_readRow_eq_rdata]
  · have hlen := congrArg List.length ((frame_encode c ps).symm.trans hword)
    rw [List.length_map, frameBytes_length] at hlen
    cases hlen

end Sys2Proof.Machine
end

section
/-! The fields of a command buffer, least significant byte first (00_scope.md R11; 30_encoding.md R79, R80, R84). -/

namespace Sys2Proof.Machine

open Sys2Proof

/-! ### A word put together from its bytes -/

theorem le16_eq_append (b0 b1 : Byte) : le16 b0 b1 = b1 ++ b0 := by
  have h : b1 ++ b0 = b1.setWidth 16 <<< 8 ||| b0.setWidth 16 :=
    (BitVec.setWidth_eq _).symm.trans BitVec.setWidth_append_eq_shiftLeft_setWidth_or
  rw [h, le16, BitVec.or_comm]

theorem le32_eq_append (b0 b1 b2 b3 : Byte) : le32 b0 b1 b2 b3 = b3 ++ b2 ++ b1 ++ b0 := by
  have h : b3 ++ b2 ++ b1 ++ b0 =
      b3.setWidth 32 <<< 24 ||| b2.setWidth 32 <<< 16 ||| b1.setWidth 32 <<< 8 ||| b0.setWidth 32 :=
    (BitVec.setWidth_eq _).symm.trans BitVec.setWidth_append_append_append_eq_shiftLeft_setWidth_or
  rw [h, le32, BitVec.or_comm _ (b3.setWidth 32 <<< 24), BitVec.or_comm _ (b2.setWidth 32 <<< 16),
    BitVec.or_comm (b0.setWidth 32), ← BitVec.or_assoc, ← BitVec.or_assoc]

theorem le16_bytes (v : Word) : le16 (v.extractLsb' 0 8) (v.extractLsb' 8 8) = v := by
  rw [le16_eq_append, BitVec.extractLsb'_append_extractLsb'_eq_extractLsb' (by rfl), BitVec.extractLsb'_eq_self]

theorem le32_bytes (v : Word32) :
    le32 (v.extractLsb' 0 8) (v.extractLsb' 8 8) (v.extractLsb' 16 8) (v.extractLsb' 24 8) = v := by
  rw [le32_eq_append]
  iterate 3 rw [BitVec.extractLsb'_append_extractLsb'_eq_extractLsb' (by rfl)]
  exact BitVec.extractLsb'_eq_self

/-! ### The bytes of a word put together -/

section

variable (b0 b1 b2 b3 : Byte)

theorem le16_byte0 : (le16 b0 b1).extractLsb' 0 8 = b0 := by
  rw [le16_eq_append, BitVec.extractLsb'_append_eq_right]

theorem le16_byte1 : (le16 b0 b1).extractLsb' 8 8 = b1 := by
  rw [le16_eq_append, BitVec.extractLsb'_append_eq_left]

theorem le32_byte0 : (le32 b0 b1 b2 b3).extractLsb' 0 8 = b0 := by
  rw [le32_eq_append, BitVec.extractLsb'_append_eq_right]

theorem le32_byte1 : (le32 b0 b1 b2 b3).extractLsb' 8 8 = b1 := by
  rw [le32_eq_append, BitVec.extractLsb'_append_eq_of_le le_rfl]
  exact BitVec.extractLsb'_append_eq_right

theorem le32_byte2 : (le32 b0 b1 b2 b3).extractLsb' 16 8 = b2 := by
  rw [le32_eq_append, BitVec.extractLsb'_append_eq_of_le (by decide), BitVec.extractLsb'_append_eq_of_le le_rfl]
  exact BitVec.extractLsb'_append_eq_right

theorem le32_byte3 : (le32 b0 b1 b2 b3).extractLsb' 24 8 = b3 := by
  rw [le32_eq_append, BitVec.extractLsb'_append_eq_of_le (by decide), BitVec.extractLsb'_append_eq_of_le (by decide)]
  exact BitVec.extractLsb'_append_eq_left

end

/-- Settles O7: the buffer's bytes 1 to 6 are the six field bytes. -/
theorem fieldsReassemble : Obligations.FieldsReassemble :=
  fun _ v w => ⟨le32_bytes v, le16_bytes w⟩

/-- Settles O8: each header byte is the byte of the field that `buf` holds at its place. -/
theorem sendHeaderOrder : Obligations.SendHeaderOrder := by
  intro buf
  refine ⟨rfl, ?_⟩
  rw [field32, field16, le32_byte0, le32_byte1, le32_byte2, le32_byte3, le16_byte0, le16_byte1]
  rfl

end Sys2Proof.Machine
end

section
/-! Refusals, the bytes of a frame as the framer takes them from Idle, and a frame as the requests at the port
(30_encoding.md R71, R76, R84; 42_relay_framer.md R168). -/

namespace Sys2Proof.Machine

open Sys2Proof

/-! ### Reserved kinds, and every kind after teardown (R30, R71) -/

/-- The reserved values of `op`, one by one. -/
theorem reservedOp_cases : ∀ op : BitVec 4, op = 0x0 ∨ op = 0x6 ∨ op = 0x7 ∨ 0xB ≤ op →
    op = 0x0 ∨ op = 0x6 ∨ op = 0x7 ∨ op = 0xB ∨ op = 0xC ∨ op = 0xD ∨ op = 0xE ∨ op = 0xF := by decide

theorem exec_reserved_word {op : BitVec 4} (hop : op = 0x0 ∨ op = 0x6 ∨ op = 0x7 ∨ 0xB ≤ op) (aux data : Word) (s : State) :
    exec (decode (requestWord op aux data)) s = .refused (.reservedOp op) := by
  rcases reservedOp_cases op hop with rfl | rfl | rfl | rfl | rfl | rfl | rfl | rfl
  · rw [decode_reservedOp0]; rfl
  · rw [decode_reservedOp6]; rfl
  · rw [decode_reservedOp7]; rfl
  · rw [decode_reservedOpB]; rfl
  · rw [decode_reservedOpC]; rfl
  · rw [decode_reservedOpD]; rfl
  · rw [decode_reservedOpE]; rfl
  · rw [decode_reservedOpF]; rfl

/-- The first write of a frame is refused in a destroyed block, and the frame with it. -/
theorem writeBytes_destroyed {s : State} (h : s.ctx.alive = false) (b : Byte) (bytes : List Byte) :
    writeBytes (b :: bytes) s = .refused .destroyed := by
  rw [writeBytes, perform_destroyed h]

theorem exec_destroyed {s : State} (h : s.ctx.alive = false) (i : Instr) : ∃ why, exec i s = .refused why := by
  cases i with
  | reservedOp0 | reservedOp6 | reservedOp7 | reservedOpB | reservedOpC | reservedOpD | reservedOpE | reservedOpF =>
    exact ⟨_, rfl⟩
  | cmdSend | cmdRecv | cmdDuplex | cmdConnect | cmdDisconnect | cmdDns => exact ⟨_, writeBytes_destroyed h _ _⟩
  | _ => exact ⟨_, perform_destroyed h _⟩

/-- Settles O12: the arms of the reserved kinds look at no state, and every other request is refused when it is accepted
(`perform_destroyed`), a frame at its first write. -/
theorem reservedKindsRefused : Obligations.ReservedKindsRefused :=
  ⟨fun s => ⟨rfl, rfl, rfl, rfl, rfl, rfl, rfl, rfl, fun _ aux data hop => exec_reserved_word hop aux data s⟩,
    fun i _ h => exec_destroyed h i⟩

/-! ### A frame's bytes from Idle (R168) -/

/-- A frame has been opened and its code is due (R160, R162). -/
structure CodeDue (s : State) : Prop where
  ready : Ready s
  parse : s.relay.tmode = .parse
  empty : s.relay.buf = []
  out_none : s.out = none

/-- 0x89 in Idle opens a frame (R160). -/
theorem start_codeDue {s : State} (hready : Ready s) (hidle : s.relay.tmode = .idle) :
    ∃ t, exec (.wdata (zext16 frameStart)) s = .next t ∧ CodeDue t := by
  have hacts : dataWriteActs frameStart s = startActs := by
    simp only [dataWriteActs, selectWrite, hidle]; rfl
  rw [exec_wdata_byte, hacts, perform_ready hready]
  exact ⟨_, rfl, ⟨hready.1, rfl⟩, rfl, rfl, rfl⟩

/-- A byte that is dropped where the code is due changes nothing (R165). -/
theorem CodeDue.drop {s : State} (hs : CodeDue s) {b : Byte} (hb : firstByteRow b = .codeDrop) :
    exec (.wdata (zext16 b)) s = .next s := by
  obtain ⟨hready, hparse, hempty, hout⟩ := hs
  have hacts : dataWriteActs b s = [] := by
    simp only [dataWriteActs, selectWrite, RelayState.cursor_eq, hparse, hempty, List.length_nil, writeRow_code, hb]; rfl
  rw [exec_wdata_byte, hacts, perform_ready hready, run_nil, State.withOut, State.withPending, ← hout, ← hready.2]

theorem CodeDue.writeBytes_drops {s : State} (hs : CodeDue s) {drops : List Byte}
    (hdrops : ∀ b ∈ drops, firstByteRow b = .codeDrop) (rest : List Byte) :
    writeBytes (drops ++ rest) s = writeBytes rest s := by
  induction drops with
  | nil => rfl
  | cons b drops ih =>
    obtain ⟨hb, hdrops⟩ := List.forall_mem_cons.mp hdrops
    rw [List.cons_append, writeBytes_cons (hs.drop hb) hs.ready.2, ih hdrops]

/-- The bytes that decode to a frame are that frame's, with bytes before the code that are dropped (R76). -/
theorem decodeFrame_inv {bytes after : List Byte} {i : Instr} (h : decodeFrame bytes = .ok (i, after)) :
    ∃ (drops : List Byte) (c : Command) (ps : List Byte),
      bytes = frameStart :: (drops ++ c.code :: (ps ++ frameTerm :: after)) ∧
      (∀ b ∈ drops, firstByteRow b = .codeDrop) ∧ i = c.instr ps := by
  cases bytes with
  | nil => cases h
  | cons b bytes =>
    rw [decodeFrame] at h
    split at h
    · next hb =>
      obtain ⟨drops, c, ps, hbytes, hdrops, hi, -⟩ := takeCode_inv bytes i after h
      exact ⟨drops, c, ps, by rw [hb, hbytes], hdrops, hi⟩
    · cases h

/-- Settles O6: after 0x89 the dropped bytes change nothing (`CodeDue.writeBytes_drops`), and without them the bytes are the
frame's own. -/
theorem framerAgreesWithFrameDecoding : Obligations.FramerAgreesWithFrameDecoding := by
  intro bytes i s hready hidle hdecode
  obtain ⟨drops, c, ps, rfl, hdrops, rfl⟩ := decodeFrame_inv hdecode
  obtain ⟨t, hstart, ht⟩ := start_codeDue hready hidle
  rw [frame_exec, frameBytes, writeBytes_cons hstart ht.ready.2, writeBytes_cons hstart ht.ready.2,
    ht.writeBytes_drops hdrops]

/-! ### A frame at the port (R84, log 15) -/

theorem unobserved_withPort (ws : List ReqWord) : Unobserved (·.withPort ws) where
  replies_eq _ := rfl
  pending_eq _ := rfl
  emit_comm _ _ := rfl
  withOut_comm _ _ := rfl
  withPending_comm _ _ := rfl
  withReplies_comm _ _ := rfl

/-- No line of a request reads or writes the port. -/
theorem commutesWith_withPort (a : Act) (ws : List ReqWord) : a.CommutesWith (·.withPort ws) where
  apply_comm r s := by
    cases a with
    | emitIfFailed e => cases r <;> rfl
    | _ => rfl
  answer_comm _ e _ s x := by
    cases e with
    | drvWrite d reg v => cases reg <;> rfl
    | sockConnect _ _ => simp only [State.useAnswer, State.useConnect]; split <;> rfl
    | _ => rfl

theorem exec_wdata_withPort (b : Byte) (s : State) (ws : List ReqWord) :
    exec (.wdata (zext16 b)) (s.withPort ws) = mapNext (·.withPort ws) (exec (.wdata (zext16 b)) s) := by
  rw [exec_wdata_byte, exec_wdata_byte]
  exact perform_commutes (unobserved_withPort ws) (fun a _ => commutesWith_withPort a ws) rfl

/-- The step that performs the DATA write first at the port. -/
theorem step_dataWord {b : Byte} {ws : List ReqWord} {s : State} (hp : s.pending = .idle) :
    step (s.withPort (dataWord b :: ws)) = mapNext (·.withPort ws) (exec (.wdata (zext16 b)) s) := by
  rw [step_request (s := s.withPort (dataWord b :: ws)) hp rfl, decode_dataWord, ← exec_wdata_withPort]
  rfl

/-- DATA writes that complete are the steps of their words, put first at the port. -/
theorem steps_of_writeBytes {bytes : List Byte} {s t : State} (hp : s.pending = .idle) (h : writeBytes bytes s = .next t)
    (ht : t.pending = .idle) : steps bytes.length (s.withPort (bytes.map dataWord ++ s.port)) = .next t := by
  induction bytes generalizing s with
  | nil => exact h
  | cons b bytes ih =>
    rw [writeBytes, ← exec_wdata_byte] at h
    split at h
    · next u hu =>
      have hport : u.port = s.port := run_port _ _ (s.withOut none) _ (perform_next (exec_wdata_byte b s ▸ hu)).2
      split at h
      · next hidle =>
        have hstep := (step_dataWord (b := b) (ws := bytes.map dataWord ++ s.port) hp).trans (congrArg _ hu)
        rw [List.length_cons, steps, List.map_cons, List.cons_append, hstep, ← hport]
        exact ih hidle h
      · next hheld => cases h; exact absurd ht hheld
    · cases h
    · cases h

/-- Settles O58: a frame is the DATA writes of its bytes, and these are its request words, stepped through. -/
theorem framesRunAsTheirRequests : Obligations.FramesRunAsTheirRequests := by
  intro c ps s t hp hport hexec ht
  have hsteps := steps_of_writeBytes hp (frame_exec c ps s ▸ hexec) ht
  rwa [frameBytes_length, ← frame_encode, hport, List.append_nil] at hsteps

end Sys2Proof.Machine
end

section
/-! Control-register writes: the answers shared out among a request's calls, then WRCNT and WSIOCNT with the re-derivation they
bring, and the mode maps (40_mode_controller.md R100 to R108). -/

namespace Sys2Proof.Machine

open Sys2Proof

/-! ### Answers for the calls of a request -/

/-- An answer for each of two groups of events is an answer for each of the first, and then for each of the second. -/
theorem answers_in_two {s : State} {xs : List Answer} {rest : List Reply} {es es' : List Event}
    (hlen : xs.length = (es ++ es').length) (hans : Answered s xs rest) :
    ∃ ys zs : List Answer, ys.length = es.length ∧ zs.length = es'.length ∧ Answered s ys (zs.map .answer ++ rest) := by
  rw [List.length_append] at hlen
  exact ⟨xs.take es.length, xs.drop es.length, by rw [List.length_take]; omega, by rw [List.length_drop]; omega,
    answered_split es.length hans⟩

/-- Plain calls that end a request, all answered. -/
theorem run_last_calls (r : Bool) {es : List Event} (hplain : ∀ e ∈ es, e.plain = true) {s : State} {xs : List Answer}
    {rest : List Reply} (hlen : xs.length = es.length) (hans : Answered s xs rest) :
    run r (es.map Act.call) s = .next { s with hist := s.hist ++ es, replies := rest, pending := .idle } := by
  have hrun := run_plain_calls r es hplain [] s xs rest hlen hans
  rwa [List.append_nil, run_nil] at hrun

/-! ### WRCNT (R100) -/

/-- Settles O23: the lines are the merge, the re-derivation (`rederive_run`) and a forward whose answer is discarded
(`drvWriteEvents_plain`), and the answers are shared out between these two. -/
theorem wrcntResult : Obligations.WrcntResult := by
  intro value s xs rest hready hans rcnt mode events hlen
  obtain ⟨ys, zs, hys, hzs, hans⟩ := answers_in_two hlen hans
  have hacts : wrcntActs value s = .setRcnt rcnt :: (rederiveActs s.params s.ctx s.ctx.mode mode ++
      (drvWriteEvents s.params .rcnt value (s.ctx.lookup mode)).map Act.call) := wrcntActs_eq value s
  show perform (wrcntActs value s) s = _
  rw [perform_ready hready, hacts, run_setRcnt, rederive_run _ _ _ _ _ _ _ ys _ hys ?answered,
    run_last_calls true (drvWriteEvents_plain _ _ _) hzs rfl, List.append_assoc]
  case answered => exact hans
  simp only [hready.2]
  rfl

/-! ### WSIOCNT (R101) -/

/-- The forward of a SIOCNT write ends the request with the driver's answer as its value (R101). -/
theorem run_forward_siocnt {s : State} {a : Answer} {rest : List Reply} (r : Bool) (d : Handle) (value : Word)
    (hans : s.replies = .answer a :: rest) :
    run r (forwardActs d .siocnt value) s = .next { s with
      hist := s.hist ++ [.drvWrite d .siocnt value], replies := rest, out := some a.value, pending := .idle } := by
  rw [forwardActs, run_call_answered hans]; rfl

/-- The last lines of WSIOCNT, in the mode `m`: the driver that claims the write, or the quirk (R101). -/
def siocntValueActs (p : Params) (c : SioContext) (m : LinkMode) (value : Word) : List Act :=
  match claimant p c m with
  | some d => forwardActs d .siocnt value
  | none => quirkActs p m value

theorem siocntValueActs_claimed {p : Params} {c : SioContext} {m : LinkMode} {d : Handle} (h : c.lookup m = some d)
    (hhook : (capsOf p d).writeRegister = true) (value : Word) :
    siocntValueActs p c m value = forwardActs d .siocnt value := by
  rw [siocntValueActs, claimant_some h hhook]

theorem siocntValueActs_unclaimed {p : Params} {c : SioContext} {m : LinkMode}
    (h : ∀ d, c.lookup m = some d → (capsOf p d).writeRegister = false) (value : Word) :
    siocntValueActs p c m value = quirkActs p m value := by
  rw [siocntValueActs, claimant_none h]

theorem wsiocntActs_eq (value : Word) (s : State) : wsiocntActs value s =
    (if modeBitsChanged s.ctx.siocnt value then
      .setSiocnt (keepModeBits value) :: rederiveActs s.params s.ctx s.ctx.mode (modeAfterSiocnt value s) else []) ++
    siocntValueActs s.params s.ctx (modeAfterSiocnt value s) value := rfl

/-- WSIOCNT up to the claimant or the quirk: on a change of the mode-select bits it stores them and re-derives the mode (R101,
R106). -/
theorem exec_wsiocnt_run (value : Word) {s : State} {xs : List Answer} {rest : List Reply} (hready : Ready s)
    (hlen : xs.length = (if modeBitsChanged s.ctx.siocnt value then
      rederiveEvents s.params s.ctx s.ctx.mode (modeAfterSiocnt value s) else []).length)
    (hans : Answered s xs rest) :
    exec (.wsiocnt value) s = run true (siocntValueActs s.params s.ctx (modeAfterSiocnt value s) value)
      { s with
        ctx := if modeBitsChanged s.ctx.siocnt value then
          rederived { s.ctx with siocnt := keepModeBits value } (modeAfterSiocnt value s) else s.ctx
        hist := s.hist ++ if modeBitsChanged s.ctx.siocnt value then
          rederiveEvents s.params s.ctx s.ctx.mode (modeAfterSiocnt value s) else []
        out := none
        replies := rest } := by
  show perform (wsiocntActs value s) s = _
  rw [perform_ready hready, wsiocntActs_eq]
  split at hlen
  · next hchanged =>
    simp only [hchanged, if_true]
    rw [List.cons_append, run_setSiocnt, rederive_run _ _ _ _ _ _ _ xs rest hlen ?answered]
    case answered => exact hans
    rfl
  · next hsame =>
    obtain rfl : xs = [] := List.length_eq_zero_iff.mp hlen
    obtain rfl : s.replies = rest := hans
    simp only [hsame, Bool.false_eq_true, if_false, List.nil_append, List.append_nil]
    rfl

/-- Settles O24: the lines before the claim run as `exec_wsiocnt_run` says; then a driver of the mode claims the
write and its answer is returned (`run_forward_siocnt`), or none does and the quirk's lines run (`run_quirk`). -/
theorem wsiocntResult : Obligations.WsiocntResult := by
  intro value s xs rest hready changed mode ctx hooks hlen
  refine ⟨fun d a hlookup hhook hans => ?_, fun hnone hans => ?_⟩
  · have hans : Answered s xs (.answer a :: rest) := hans.trans (by simp)
    have hacts := siocntValueActs_claimed (c := s.ctx) (m := modeAfterSiocnt value s) hlookup hhook value
    rw [exec_wsiocnt_run value hready hlen hans, hacts, run_forward_siocnt true d value rfl, hready.2]
    rfl
  · have hacts := siocntValueActs_unclaimed (c := s.ctx) (m := modeAfterSiocnt value s) hnone value
    rw [exec_wsiocnt_run value hready hlen hans, hacts, run_quirk, hready.2]
    rfl

/-- A change between the two widths of the Normal mode re-derives with the same driver on both sides (R108). -/
theorem rederiveEvents_width {p : Params} {c : SioContext} {old new : LinkMode} {d : Handle}
    (hwidth : old = .normal8 ∧ new = .normal32 ∨ old = .normal32 ∧ new = .normal8) (hd : c.slotNormal = some d) :
    rederiveEvents p c old new = unloadEvents p (some d) ++ loadEvents p (some d) := by
  rcases hwidth with ⟨rfl, rfl⟩ | ⟨rfl, rfl⟩ <;> rw [← hd] <;> rfl

/-- Settles O28: the write is an unclaimed WSIOCNT (`wsiocntResult`) whose hooks are those of a change of width. -/
theorem normalWidthChangeReloads : Obligations.NormalWidthChangeReloads := by
  intro value d s xs rest hready hd hhook hbits mode hwidth reload hans hlen
  have hslot : slotOf mode = some .normal := by rcases hwidth with ⟨-, h⟩ | ⟨-, h⟩ <;> rw [h] <;> rfl
  have hne : mode ≠ s.ctx.mode := by rcases hwidth with ⟨h, h'⟩ | ⟨h, h'⟩ <;> rw [h, h'] <;> decide
  have hlookup : s.ctx.lookup mode = some d := by rw [SioContext.lookup, hslot]; exact hd
  have hchanged : ((value ^^^ s.ctx.siocnt) &&& 0x3000 != 0) = true := bne_iff_ne.mpr hbits
  have hevents : rederiveEvents s.params s.ctx s.ctx.mode mode = reload := rederiveEvents_width hwidth hd
  have hresult := wsiocntResult value s xs rest hready
  simp only [hchanged, if_true] at hresult
  refine ⟨_, (hresult (hlen.trans (congrArg _ hevents.symm))).2 (fun d' h => ?_) hans, rfl, ?_, ?_, _,
    congrArg (fun es => s.hist ++ es ++ _) hevents, fun e he => ?_⟩
  · cases hlookup.symm.trans h; exact hhook
  · exact (if_neg hne).trans hslot
  · simp only [SioContext.active, rederived]
    rw [if_neg hne, hslot]; exact hd
  · split at he
    · rw [List.mem_singleton.mp he]; rfl
    · cases he

/-! ### The mode maps (R103) -/

theorem modeMap_low (p : Params) {sel : BitVec 4} (h : sel < 8) :
    modeMap p sel = if p.normal32.contains (sel.extractLsb' 0 2) then .normal32 else .normal8 := if_pos h

theorem modeMap_high (p : Params) {sel : BitVec 4} (h : 8 ≤ sel) :
    modeMap p sel = if p.joybus.contains sel then .joybus else .multiplayer := if_neg (BitVec.not_lt.mpr h)

/-- The lowest of the selectors with the same low two bits. -/
theorem lowest_selector : ∀ b : BitVec 2, b.setWidth 4 < 8 ∧ (b.setWidth 4 : BitVec 4).extractLsb' 0 2 = b := by decide

theorem mem_filter_all (w : Nat) (q : BitVec w → Bool) (b : BitVec w) :
    b ∈ (List.ofFn BitVec.ofFin).filter q ↔ q b = true := by
  simp only [List.mem_filter, List.mem_ofFn, and_iff_right_iff_imp]
  exact fun _ => ⟨b.toFin, rfl⟩

/-- Settles O26: below 8 and from 8 on, `modeMap` is its equation; conversely, the lists are those of the low two bits and of
the selectors that the map sends to Normal32 and to Joybus. -/
theorem modeMapsAreThoseAllowed : Obligations.ModeMapsAreThoseAllowed := by
  refine ⟨fun p => ⟨⟨fun sel h => ?_, fun sel sel' h h' heq => ?_, fun sel h => ?_⟩, fun sel => ?_⟩, fun f p hf => ?_⟩
  · rw [modeMap_low p h]; split
    exacts [.inr rfl, .inl rfl]
  · rw [modeMap_low p h, modeMap_low p h', heq]
  · rw [modeMap_high p h]; split
    exacts [.inr rfl, .inl rfl]
  · unfold modeMap; split <;> split <;> decide
  · obtain ⟨hlow, hbits, hhigh⟩ := hf
    refine ⟨(List.ofFn BitVec.ofFin).filter (fun b => f (b.setWidth 4) = .normal32),
      (List.ofFn BitVec.ofFin).filter (fun sel => f sel = .joybus), fun sel => ?_⟩
    by_cases h : sel < 8
    · obtain ⟨hlt, hext⟩ := lowest_selector (sel.extractLsb' 0 2)
      simp only [modeMap_low _ h, List.contains_iff_mem, mem_filter_all, decide_eq_true_eq, hbits _ sel hlt h hext]
      rcases hlow sel h with hf | hf <;> simp [hf]
    · have h := BitVec.not_lt.mp h
      simp only [modeMap_high _ h, List.contains_iff_mem, mem_filter_all, decide_eq_true_eq]
      rcases hhigh sel h with hf | hf <;> simp [hf]

end Sys2Proof.Machine
end

section
/-! SETDRV and DESTROY: what the two outcomes of Init leave, then each path of an installation and the teardown
(40_mode_controller.md R110 to R117). -/

namespace Sys2Proof.Machine

open Sys2Proof

/-! ### The lines of SETDRV (R110 to R112) -/

theorem slotOfCode_unsupported : ∀ code : BitVec 3, 4 ≤ code → slotOfCode code = none := by decide

theorem setdrvActs_unsupported {code : BitVec 3} (h : slotOfCode code = none) (handle : Handle) (s : State) :
    setdrvActs code handle s = [.emit (.log .unsupportedMode)] := by
  rw [setdrvActs, h]

theorem setdrvActs_install {code : BitVec 3} {k : Slot} {d : Handle} (hk : slotOfCode code = some k) (hd : d ≠ 0) (s : State) :
    setdrvActs code d s = retireActs s k ++ (initActs s.params d ++ installActs s k (some d)) := by
  simp only [setdrvActs, hk, driverOf, if_neg hd, List.append_assoc]

theorem setdrvActs_remove {code : BitVec 3} {k : Slot} (hk : slotOfCode code = some k) (s : State) :
    setdrvActs code 0 s = retireActs s k ++ installActs s k none := by
  simp only [setdrvActs, hk, driverOf, if_true, List.append_nil]

/-- Settles O31: a code from 4 on names no slot, and the one line left is the log. -/
theorem setdrvUnsupportedMode : Obligations.SetdrvUnsupportedMode := by
  intro code handle s hready hcode
  show perform (setdrvActs code handle s) s = _
  rw [perform_ready hready, setdrvActs_unsupported (slotOfCode_unsupported code hcode), run_emit, run_nil, ← hready.2]
  rfl

/-! ### Attaching and initializing a driver (R110) -/

section

variable {p : Params} {d : Handle} {rest : List Reply} {s : State}

/-- A driver with no init hook, or whose init is answered ok, is attached and initialized, and the lines after run. -/
theorem init_run_ok (acts : List Act) {inits : List Answer} (hlen : inits.length = if (capsOf p d).init then 1 else 0)
    (hok : ∀ a ∈ inits, a.ok = true) (hans : Answered s inits rest) :
    run true (initActs p d ++ acts) s = run true acts { s with
      hist := s.hist ++ [.attach d] ++ (if (capsOf p d).init then [.init d] else []), replies := rest } := by
  unfold initActs
  cases hinit : (capsOf p d).init with
  | false =>
    obtain rfl : inits = [] := List.length_eq_zero_iff.mp (by simpa [hinit] using hlen)
    obtain rfl : s.replies = rest := hans
    simp [State.emit]
  | true =>
    obtain ⟨a, rfl⟩ := List.length_eq_one_iff.mp (by simpa [hinit] using hlen)
    have ha : a.ok = true := hok a List.mem_cons_self
    simp only [if_true, List.cons_append, run_emit]
    rw [run_call_answered (s := s.emit _) hans, answerR, ha]
    cases (capsOf p d).deinit <;> rfl

/-- A driver whose init fails is deinitialized, the failure is logged, and the request ends there. -/
theorem init_run_failed (acts : List Act) {a : Answer} {deinits : List Answer} (hinit : (capsOf p d).init = true)
    (hfail : a.ok = false) (hlen : deinits.length = (deinitEvents p (some d)).length)
    (hans : Answered s (a :: deinits) rest) :
    run true (initActs p d ++ acts) s = .next { s with
      hist := s.hist ++ [.attach d, .init d] ++ deinitEvents p (some d) ++ [.log .initFailed]
      replies := rest
      pending := .idle } := by
  simp only [initActs, hinit, if_true, List.cons_append, run_emit]
  rw [run_call_answered (s := s.emit _) hans, answerR, hfail]
  have hevents : deinitEvents p (some d) = if (capsOf p d).deinit then [.deinit d] else [] := rfl
  rw [hevents] at hlen ⊢
  cases hdeinit : (capsOf p d).deinit with
  | false =>
    obtain rfl : deinits = [] := List.length_eq_zero_iff.mp (by simpa [hdeinit] using hlen)
    simp [State.useAnswer, State.emit, State.withReplies, State.withPending]
  | true =>
    obtain ⟨x, rfl⟩ := List.length_eq_one_iff.mp (by simpa [hdeinit] using hlen)
    simp only [if_true, List.cons_append, run_callIfFailed_failed]
    rw [run_call_answered (x := x) (replies := rest) rfl]
    simp [State.useAnswer, answerR, State.emit, State.withReplies, State.withPending]

end

/-- Settles O32: retire (`retire_run`), attach and initialize (`init_run_ok`), install (`install_run`), each with its own
answers. -/
theorem setdrvInstalls : Obligations.SetdrvInstalls := by
  intro code d k s olds inits loads rest hready hk hd hans active retired loaded holds hinits hok hloads
  have hans : Answered (s.withOut none) olds (inits.map .answer ++ (loads.map .answer ++ rest)) := hans.trans (by simp)
  show perform (setdrvActs code d s) s = _
  rw [perform_ready hready, setdrvActs_install hk hd, retire_run s k true _ _ olds _ holds hans,
    init_run_ok _ hinits hok rfl, install_run s k (some d) true _ loads rest hloads rfl, hready.2]
  rfl

/-- Settles O33: retire (`retire_run`), then the failed initialization ends the request before the slot is written
(`init_run_failed`). -/
theorem setdrvInitFailureKeepsSlot : Obligations.SetdrvInitFailureKeepsSlot := by
  intro code d k s olds deinits a rest hready hk hd hinit hfail hans holds hdeinits
  have hans : Answered (s.withOut none) olds ((a :: deinits).map .answer ++ rest) := hans.trans (by simp)
  show perform (setdrvActs code d s) s = _
  rw [perform_ready hready, setdrvActs_install hk hd, retire_run s k true _ _ olds _ holds hans,
    init_run_failed _ hinit hfail hdeinits rfl, hready.2]
  rfl

/-! ### The null driver (R112) -/

/-- Settles O34: the lines are retire and install with no initialization between, and no driver is no load; the slot that is
emptied is the one the mode looks up. -/
theorem setdrvRemoves : Obligations.SetdrvRemoves := by
  intro code k s xs rest hready hk hans hlen active ctx
  refine ⟨?_, fun hactive => ⟨?_, ?_⟩⟩
  · have hnone : (if slotOf s.ctx.mode = some k then loadEvents s.params none else []) = [] := ite_self []
    show perform (setdrvActs code 0 s) s = _
    rw [perform_ready hready, setdrvActs_remove hk, retire_run s k true _ (s.withOut none) xs rest hlen hans,
      install_run s k none true _ [] rest (congrArg List.length hnone.symm) rfl, hnone, List.append_nil, hready.2]
    rfl
  · have hslot : slotOf ctx.mode = some k := (congrArg slotOf (SioContext.setSlot_mode s.ctx k none)).trans hactive
    rw [SioContext.lookup, hslot]
    cases k <;> rfl
  · have hdriver : ctx.activeDriver = some k := if_pos hactive
    rw [SioContext.active, hdriver]
    cases k <;> rfl

/-! ### Teardown (R117) -/

/-- The events of DESTROY but the close of the socket. -/
def teardownEvents (s : State) : List Event :=
  unloadEvents s.params (s.ctx.lookup s.ctx.mode) ++ deinitEvents s.params s.ctx.slotNormal ++
    deinitEvents s.params s.ctx.slotMultiplayer ++ deinitEvents s.params s.ctx.slotJoybus

theorem teardownEvents_plain (s : State) : ∀ e ∈ teardownEvents s, e.plain = true := by
  simp only [teardownEvents, List.forall_mem_append]
  exact ⟨⟨⟨unloadEvents_plain _ _, deinitEvents_plain _ _⟩, deinitEvents_plain _ _⟩, deinitEvents_plain _ _⟩

/-- The lines of DESTROY: its calls, the close among them, then the writes of the socket and of `alive` (R117). -/
theorem destroyActs_eq (s : State) : destroyActs s =
    (teardownEvents s ++ s.relay.sock.toList.map Event.sockClose).map Act.call ++
      (s.relay.sock.toList.map fun _ => Act.setSock none) ++ [.setAlive false] := by
  have hslots : [Slot.normal, Slot.multiplayer, Slot.joybus].flatMap (fun k => deinitActs s.params (s.ctx.slot k)) =
      deinitActs s.params s.ctx.slotNormal ++ (deinitActs s.params s.ctx.slotMultiplayer ++
        deinitActs s.params s.ctx.slotJoybus) := by
    simp [SioContext.slot]
  rw [destroyActs, hslots]
  cases s.relay.sock <;> simp [teardownEvents, unloadActs_eq, deinitActs_eq]

/-- Settles O35: the calls are plain and all answered; then an open socket is removed, where there was none it stays so, and
the block is no longer alive. -/
theorem destroyResult : Obligations.DestroyResult := by
  intro s xs rest hready hans events hlen
  have hplain : ∀ e ∈ events, e.plain = true := by
    refine List.forall_mem_append.mpr ⟨teardownEvents_plain s, fun e he => ?_⟩
    obtain ⟨h, -, rfl⟩ := List.mem_map.mp he
    rfl
  have hacts : destroyActs s = events.map Act.call ++
      ((s.relay.sock.toList.map fun _ => Act.setSock none) ++ [.setAlive false]) :=
    (destroyActs_eq s).trans (List.append_assoc _ _ _)
  show perform (destroyActs s) s = _
  rw [perform_ready hready, hacts, run_plain_calls true events hplain _ (s.withOut none) xs rest hlen hans, hready.2]
  cases hsock : s.relay.sock with
  | some h => rfl
  | none =>
    have hrelay : { s.relay with sock := none } = s.relay := by rw [← hsock]
    rw [hrelay]; rfl

end Sys2Proof.Machine
end

section
/-! The link mode as a function of the control registers: which lines write the mode or a control register, and that every
request which completes leaves the mode that the registers select (40_mode_controller.md R105, R107). -/

namespace Sys2Proof.Machine

open Sys2Proof

/-- The mode is the one that the control registers select (R107). -/
def ModeDerived (s : State) : Prop := s.ctx.mode = deriveMode s.params s.ctx.rcnt s.ctx.siocnt

/-! ### Lines that write neither a control register nor the mode -/

/-- The act writes neither `rcnt` nor `siocnt` nor `mode`. -/
def Act.sparesMode : Act → Bool
  | .setRcnt _ | .setSiocnt _ | .setMode _ => false
  | _ => true

theorem modeDerived_apply {a : Act} (ha : a.sparesMode = true) (r : Bool) {s : State} (hs : ModeDerived s) :
    ModeDerived (a.apply r s) := by
  cases a with
  | setRcnt | setSiocnt | setMode => cases ha
  | emitIfFailed e => cases r <;> exact hs
  | setSlot k d => cases k <;> exact hs
  | _ => exact hs

theorem modeDerived_useAnswer {s : State} (hs : ModeDerived s) (e : Event) (x : Answer) : ModeDerived (s.useAnswer e x) := by
  unfold ModeDerived
  rw [useAnswer_ctx, (useAnswer_hist s e x).2.1]
  exact hs

/-- Lines that spare the mode and the registers keep the mode derived, whether they complete or are held. -/
theorem run_modeDerived {acts : List Act} (hacts : acts.all Act.sparesMode = true) {r : Bool} {s t : State}
    (hs : ModeDerived s) (h : run r acts s = .next t) : ModeDerived t := by
  induction acts generalizing r s with
  | nil => cases h; exact hs
  | cons a rest ih =>
    obtain ⟨ha, hrest⟩ := Bool.and_eq_true_iff.mp (List.all_cons ▸ hacts)
    rw [run] at h
    split at h
    · next e _ =>
      split at h
      · next x replies _ => exact ih hrest (modeDerived_useAnswer (s := (s.emit e).withReplies replies) hs e x) h
      · cases h
      · cases h; exact hs
    · split at h
      · cases h; exact hs
      · exact ih hrest (modeDerived_apply ha r hs) h

/-! ### Which lines spare the mode -/

theorem calls_spareMode (es : List Event) : (es.map Act.call).all Act.sparesMode = true := by
  simp [Act.sparesMode]

@[simp] theorem unloadActs_sparesMode (p : Params) (d : Option Handle) : (unloadActs p d).all Act.sparesMode = true :=
  unloadActs_eq p d ▸ calls_spareMode _

@[simp] theorem loadActs_sparesMode (p : Params) (d : Option Handle) : (loadActs p d).all Act.sparesMode = true :=
  loadActs_eq p d ▸ calls_spareMode _

@[simp] theorem deinitActs_sparesMode (p : Params) (d : Option Handle) : (deinitActs p d).all Act.sparesMode = true :=
  deinitActs_eq p d ▸ calls_spareMode _

theorem siocntValueActs_sparesMode (p : Params) (c : SioContext) (m : LinkMode) (value : Word) :
    (siocntValueActs p c m value).all Act.sparesMode = true := by
  unfold siocntValueActs quirkActs
  split
  · rfl
  · split <;> rfl

theorem wotherActs_sparesMode (off value : Word) (s : State) : (wotherActs off value s).all Act.sparesMode = true := by
  unfold wotherActs
  split <;> rfl

theorem initActs_sparesMode (p : Params) (d : Handle) : (initActs p d).all Act.sparesMode = true := by
  unfold initActs
  split_ifs <;> rfl

theorem retireActs_sparesMode (s : State) (k : Slot) : (retireActs s k).all Act.sparesMode = true := by
  unfold retireActs
  split <;> simp

theorem installActs_sparesMode (s : State) (k : Slot) (d : Option Handle) :
    (installActs s k d).all Act.sparesMode = true := by
  unfold installActs
  split <;> simp [Act.sparesMode]

theorem setdrvActs_sparesMode (code : BitVec 3) (handle : Handle) (s : State) :
    (setdrvActs code handle s).all Act.sparesMode = true := by
  unfold setdrvActs
  split
  · rfl
  · split <;> simp [retireActs_sparesMode, initActs_sparesMode, installActs_sparesMode]

theorem destroyActs_sparesMode (s : State) : (destroyActs s).all Act.sparesMode = true := by
  rw [destroyActs_eq]
  simp [Act.sparesMode]

theorem commandActs_sparesMode (c : Command) (s : State) : (commandActs c s).all Act.sparesMode = true := by
  cases c with
  | duplex | dns => rfl
  | send => simp only [commandActs, cmdSendActs]; split <;> rfl
  | recv => simp only [commandActs, cmdRecvActs]; split <;> rfl
  | connect => simp only [commandActs, cmdConnectActs]; split <;> rfl
  | disconnect => simp only [commandActs, cmdDisconnectActs]; split <;> rfl

theorem dataWriteActs_sparesMode (b : Byte) (s : State) : (dataWriteActs b s).all Act.sparesMode = true := by
  unfold dataWriteActs
  cases selectWrite s b with
  | term =>
    simp only [writeRowActs, termActs, dispatchActs]
    split
    · exact commandActs_sparesMode _ s
    · rfl
  | payloadOut => simp only [writeRowActs, payloadOutActs]; split <;> rfl
  | duplexOut => simp only [writeRowActs, duplexOutActs]; split <;> rfl
  | _ => rfl

theorem dataReadActs_sparesMode (s : State) : (dataReadActs s).all Act.sparesMode = true := by
  unfold dataReadActs
  cases selectRead s with
  | nodata | estab => rfl
  | payloadIn => simp only [readRowActs, payloadInActs]; split <;> rfl
  | duplexIn => simp only [readRowActs, duplexInActs]; split <;> rfl

/-! ### Lines that re-derive the mode -/

/-- After re-derivation to the mode that the registers select, lines that spare the mode keep it so. -/
theorem rederive_modeDerived {p : Params} {c : SioContext} {old new : LinkMode} {acts : List Act}
    (hacts : acts.all Act.sparesMode = true) {r : Bool} {s t : State}
    (h : run r (rederiveActs p c old new ++ acts) s = .next t)
    (hnew : new = deriveMode s.params s.ctx.rcnt s.ctx.siocnt) : ModeDerived t := by
  rw [rederiveActs, List.cons_append, run_setMode] at h
  refine run_modeDerived ?_ (s := s.withCtx { s.ctx with mode := new }) hnew h
  split <;> simp [Act.sparesMode, hacts]

/-- A run that completes has its first calls answered and goes on with the lines after them. -/
theorem run_calls_complete {es : List Event} {rest : List Act} {r : Bool} {s t : State}
    (h : run r (es.map Act.call ++ rest) s = .next t) (ht : t.pending = .idle) :
    ∃ r' u, Extends s u ∧ run r' rest u = .next t := by
  induction es generalizing r s with
  | nil => exact ⟨r, s, .refl s, h⟩
  | cons e es ih =>
    rw [List.map_cons, List.cons_append, run] at h
    dsimp only [Act.waitsOn] at h
    split at h
    · next x replies _ =>
      obtain ⟨r', u, hu, hrun⟩ := ih h
      exact ⟨r', u, ((extends_emit s e).trans (extends_answered _ e x replies)).trans hu, hrun⟩
    · cases h
    · cases h; cases ht

/-- RESET loads the registers and re-derives after the unload of the active driver (R280). -/
theorem reset_modeDerived {s t : State} (h : run true (resetActs s) (s.withOut none) = .next t) (ht : t.pending = .idle) :
    ModeDerived t := by
  rw [resetActs, unloadActs_eq] at h
  obtain ⟨r', v, hv, hrun⟩ := run_calls_complete h ht
  rw [run_setRcnt, run_setSiocnt, run_setMode, run_setActive, ← List.append_nil (rederiveActs ..)] at hrun
  have hparams : v.params = s.params := hv.params_eq
  refine rederive_modeDerived rfl hrun ?_
  rw [← hparams]; rfl

/-! ### Every instruction -/

/-- A request that completes leaves the mode derived. -/
theorem RequestLines.modeDerived {i : Instr} {acts : State → List Act} (h : RequestLines i acts) {s t : State}
    (hs : ModeDerived s) (hexec : exec i s = .next t) (ht : t.pending = .idle) : ModeDerived t := by
  have hrun := (perform_next (h.exec_eq s ▸ hexec)).2
  have hs : ModeDerived (s.withOut none) := hs
  cases h with
  | wrcnt value =>
    rw [wrcntActs_eq, List.cons_append, run_setRcnt] at hrun
    exact rederive_modeDerived (calls_spareMode _) hrun rfl
  | wsiocnt value =>
    rw [wsiocntActs_eq] at hrun
    split at hrun
    · next hchanged =>
      rw [List.cons_append, run_setSiocnt] at hrun
      exact rederive_modeDerived (siocntValueActs_sparesMode _ _ _ _) hrun (if_pos hchanged)
    · exact run_modeDerived (siocntValueActs_sparesMode _ _ _ _) hs hrun
  | reset => exact reset_modeDerived hrun ht
  | wdata value => exact run_modeDerived (dataWriteActs_sparesMode _ s) hs hrun
  | rdata => exact run_modeDerived (dataReadActs_sparesMode s) hs hrun
  | wother off value => exact run_modeDerived (wotherActs_sparesMode off value s) hs hrun
  | setdrv code handle => exact run_modeDerived (setdrvActs_sparesMode code handle s) hs hrun
  | destroy => exact run_modeDerived (destroyActs_sparesMode s) hs hrun

theorem writeBytes_modeDerived {bytes : List Byte} {s t : State} (hs : ModeDerived s) (h : writeBytes bytes s = .next t) :
    ModeDerived t := by
  induction bytes generalizing s with
  | nil => cases h; exact hs
  | cons b bytes ih =>
    rw [writeBytes] at h
    split at h
    · next u hu =>
      have hu : ModeDerived u := run_modeDerived (dataWriteActs_sparesMode b s) (s := s.withOut none) hs (perform_next hu).2
      split at h
      · exact ih hu h
      · cases h; exact hu
    · cases h
    · cases h

/-- An instruction that completes leaves the mode derived. -/
theorem exec_modeDerived {i : Instr} {s t : State} (hs : ModeDerived s) (h : exec i s = .next t) (ht : t.pending = .idle) :
    ModeDerived t := by
  rcases instr_cases i with hi | ⟨row, b, rfl⟩ | ⟨row, rfl⟩ | ⟨c, ps, rfl⟩
  · obtain ⟨w, -, rfl⟩ := requestsDecodeFromTheirWords i hi
    rcases decode_lines_or_refused w with ⟨acts, hacts⟩ | ⟨why, hwhy⟩
    · exact hacts.modeDerived hs h ht
    · rw [hwhy] at h; cases h
  · exact (RequestLines.wdata _).modeDerived hs (exec_row_eq_wdata row b s ▸ h) ht
  · exact RequestLines.rdata.modeDerived hs (exec_readRow_eq_rdata row s ▸ h) ht
  · exact writeBytes_modeDerived hs (frame_exec c ps s ▸ h)

/-- Instructions performed to the end leave the mode derived, under the parameters they began with. -/
theorem performAll_modeDerived {is : List Instr} {s t : State} (hs : ModeDerived s) (h : performAll is s = .next t)
    (ht : t.pending = .idle) : ModeDerived t ∧ t.params = s.params := by
  induction is generalizing s with
  | nil => cases h; exact ⟨hs, rfl⟩
  | cons i is ih =>
    rw [performAll] at h
    split at h
    · next u hu =>
      split at h
      · next hidle =>
        obtain ⟨hmode, hparams⟩ := ih (exec_modeDerived hs hu hidle) h
        exact ⟨hmode, hparams.trans (exec_extends hu).params_eq⟩
      · next hheld => cases h; exact absurd ht hheld
    · cases h
    · cases h

/-- Settles O27: being derived is kept by every instruction that completes (`exec_modeDerived`), so also by a sequence of them
(`performAll_modeDerived`), and a derived mode depends on the selector's bits alone. -/
theorem modeIsPureFunctionOfRegisters : Obligations.ModeIsPureFunctionOfRegisters := by
  refine ⟨fun i s t _ hs h ht => exec_modeDerived hs h ht, ?_⟩
  intro s t t' writes writes' _ hs _ h h' ht ht' hrcnt hsiocnt
  obtain ⟨hmode, hparams⟩ := performAll_modeDerived hs h ht
  obtain ⟨hmode', hparams'⟩ := performAll_modeDerived hs h' ht'
  calc t.ctx.mode = modeMap t.params (selector t.ctx.rcnt t.ctx.siocnt) := hmode
    _ = modeMap t'.params (selector t'.ctx.rcnt t'.ctx.siocnt) := by
      rw [hparams, hparams', selector, selector, hrcnt, hsiocnt]
    _ = t'.ctx.mode := hmode'.symm

end Sys2Proof.Machine
end

section
/-! The Register Gateway: the SIOCNT quirk on single bits that do not meet, and WOTHER (00_scope.md R8; 41_register_gateway.md
R140, R141, R143). -/

namespace Sys2Proof.Machine

open Sys2Proof

/-! ### Words that do not meet -/

section

variable {v m r s : Word}

theorem or_and_of_disjoint (h : r &&& m = 0) : (v ||| r) &&& m = v &&& m := by
  rw [BitVec.and_or_distrib_right, h]
  exact BitVec.or_zero

theorem not_and_of_disjoint (h : s &&& m = 0) : ~~~s &&& m = m := by
  calc ~~~s &&& m = (~~~s &&& m) ||| (s &&& m) := by rw [h]; exact BitVec.or_zero.symm
    _ = m := by rw [← BitVec.and_or_distrib_right, BitVec.not_or_self, BitVec.allOnes_and]

theorem clear_and_of_disjoint (h : s &&& m = 0) : v &&& ~~~s &&& m = v &&& m := by
  rw [BitVec.and_assoc, not_and_of_disjoint h]

theorem or_and_self_right (v r : Word) : (v ||| r) &&& r = r := by
  ext i
  simpa using Or.inr

theorem and_not_or_left (r s : Word) : r &&& ~~~(r ||| s) = 0 := by
  rw [BitVec.not_or, ← BitVec.and_assoc, BitVec.and_not_self]
  exact BitVec.zero_and

theorem isSingleBit_twoPow (h : isSingleBit v = true) : ∃ i, v = BitVec.twoPow 16 i := by
  obtain ⟨i, -, hi⟩ := List.any_eq_true.mp h
  exact ⟨i, eq_of_beq hi⟩

/-- Two single bits that differ have no bit in common. -/
theorem singleBits_disjoint (hv : isSingleBit v = true) (hm : isSingleBit m = true) (hne : v ≠ m) : v &&& m = 0 := by
  obtain ⟨i, rfl⟩ := isSingleBit_twoPow hv
  obtain ⟨j, rfl⟩ := isSingleBit_twoPow hm
  have hij : i ≠ j := fun h => hne (congrArg _ h)
  rw [BitVec.and_twoPow, BitVec.getLsbD_twoPow, decide_eq_false hij, Bool.and_false]
  rfl

end

/-! ### The quirk (R141, R143) -/

theorem bitSet_iff (v m : Word) : bitSet v m = true ↔ v &&& m ≠ 0 := bne_iff_ne

section

variable {p : Params} {v : Word}

/-- The pairs of the quirk's bits that must not meet: ready sets none of the others, and clearing start keeps the interrupt
enable (R8). -/
structure QuirkBitsApart (p : Params) : Prop where
  ready_start : p.qReady &&& p.qStart = 0
  ready_intClk : p.qReady &&& p.qIntClk = 0
  ready_irqEn : p.qReady &&& p.qIrqEn = 0
  start_irqEn : p.qStart &&& p.qIrqEn = 0

theorem quirkBitsApart (hp : paramsOk p = true) : QuirkBitsApart p := by
  simp only [paramsOk, Bool.and_eq_true, decide_eq_true_eq, List.nodup_cons, List.mem_cons, List.not_mem_nil, or_false,
    not_or] at hp
  obtain ⟨⟨⟨⟨⟨⟨hready, hstart⟩, hintClk⟩, hirqEn⟩, ⟨hrs, hrc, hri⟩, ⟨-, hsi⟩, -⟩, -⟩, -⟩ := hp
  exact ⟨singleBits_disjoint hready hstart hrs, singleBits_disjoint hready hintClk hrc,
    singleBits_disjoint hready hirqEn hri, singleBits_disjoint hstart hirqEn hsi⟩

/-- A start with the internal enable completes at once (R141). -/
theorem normalQuirk_completes (hp : QuirkBitsApart p) (hstart : v &&& p.qStart ≠ 0) (hintClk : v &&& p.qIntClk ≠ 0) :
    normalQuirk p v = ((v ||| p.qReady) &&& ~~~p.qStart, bitSet v p.qIrqEn) := by
  simp only [normalQuirk, bitSet, or_and_of_disjoint hp.ready_start, or_and_of_disjoint hp.ready_intClk,
    or_and_of_disjoint hp.ready_irqEn, clear_and_of_disjoint hp.start_irqEn]
  exact if_pos (Bool.and_eq_true_iff.mpr ⟨bne_iff_ne.mpr hstart, bne_iff_ne.mpr hintClk⟩)

/-- Without a start, or without the internal enable, only ready is set (R141). -/
theorem normalQuirk_idles (hp : QuirkBitsApart p) (h : v &&& p.qStart = 0 ∨ v &&& p.qIntClk = 0) :
    normalQuirk p v = (v ||| p.qReady, false) := by
  simp only [normalQuirk, bitSet, or_and_of_disjoint hp.ready_start, or_and_of_disjoint hp.ready_intClk]
  refine if_neg fun hboth => ?_
  obtain ⟨hstart, hintClk⟩ := Bool.and_eq_true_iff.mp hboth
  exact h.elim (bne_iff_ne.mp hstart) (bne_iff_ne.mp hintClk)

/-- The quirk's result in the Normal modes: ready is set, the start bit is cleared or kept, and the rest is as written. -/
theorem normalQuirk_cases (hp : QuirkBitsApart p) (v : Word) :
    (v &&& p.qStart ≠ 0 ∧ v &&& p.qIntClk ≠ 0 ∧
      normalQuirk p v = ((v ||| p.qReady) &&& ~~~p.qStart, bitSet v p.qIrqEn)) ∨
    ((v &&& p.qStart = 0 ∨ v &&& p.qIntClk = 0) ∧ normalQuirk p v = (v ||| p.qReady, false)) := by
  by_cases h : v &&& p.qStart = 0 ∨ v &&& p.qIntClk = 0
  · exact .inr ⟨h, normalQuirk_idles hp h⟩
  · obtain ⟨hstart, hintClk⟩ := not_or.mp h
    exact .inl ⟨hstart, hintClk, normalQuirk_completes hp hstart hintClk⟩

theorem normalQuirk_ready (hp : QuirkBitsApart p) (v : Word) : (normalQuirk p v).1 &&& p.qReady = p.qReady := by
  rcases normalQuirk_cases hp v with ⟨-, -, h⟩ | ⟨-, h⟩ <;> rw [h]
  · rw [clear_and_of_disjoint (BitVec.and_comm _ _ ▸ hp.ready_start), or_and_self_right]
  · exact or_and_self_right v p.qReady

/-- A mask that holds neither ready nor start reads the value as it was written. -/
theorem normalQuirk_other (hp : QuirkBitsApart p) {m : Word} (hready : p.qReady &&& m = 0) (hstart : p.qStart &&& m = 0)
    (v : Word) : (normalQuirk p v).1 &&& m = v &&& m := by
  rcases normalQuirk_cases hp v with ⟨-, -, h⟩ | ⟨-, h⟩ <;> rw [h]
  · rw [clear_and_of_disjoint hstart, or_and_of_disjoint hready]
  · exact or_and_of_disjoint hready

theorem normalQuirk_start_cleared (hp : QuirkBitsApart p) (hstart : v &&& p.qStart ≠ 0) (hintClk : v &&& p.qIntClk ≠ 0) :
    (normalQuirk p v).1 &&& p.qStart = 0 := by
  rw [normalQuirk_completes hp hstart hintClk, BitVec.and_assoc, BitVec.not_and_self]
  exact BitVec.and_zero

theorem normalQuirk_start_kept (hp : QuirkBitsApart p) (h : v &&& p.qStart = 0 ∨ v &&& p.qIntClk = 0) :
    (normalQuirk p v).1 &&& p.qStart = v &&& p.qStart := by
  rw [normalQuirk_idles hp h, or_and_of_disjoint hp.ready_start]

theorem normalQuirk_raises_iff (hp : QuirkBitsApart p) (v : Word) :
    (normalQuirk p v).2 = true ↔ v &&& p.qStart ≠ 0 ∧ v &&& p.qIntClk ≠ 0 ∧ v &&& p.qIrqEn ≠ 0 := by
  rcases normalQuirk_cases hp v with ⟨hstart, hintClk, h⟩ | ⟨hnone, h⟩ <;> rw [h]
  · simp only [bitSet_iff, hstart, hintClk, ne_eq, not_false_eq_true, true_and]
  · exact ⟨nofun, fun ⟨hstart, hintClk, _⟩ => absurd hnone (not_or.mpr ⟨hstart, hintClk⟩)⟩

end

theorem quirk_normal {m : LinkMode} (hm : m = .normal8 ∨ m = .normal32) (p : Params) (v : Word) :
    quirk p m v = normalQuirk p v := by
  rcases hm with rfl | rfl <;> rfl

/-- Settles O25: the bits that R8 keeps apart give each clause of the Normal modes; the other modes are the quirk's own
equations. -/
theorem quirkBits : Obligations.QuirkBits := by
  intro p m v hp
  have hp := quirkBitsApart hp
  refine ⟨fun hm => ?_, fun hm => ?_, fun hm => ?_⟩
  · rw [quirk_normal hm]
    exact ⟨normalQuirk_ready hp v,
      normalQuirk_other hp (and_not_or_left _ _) (BitVec.or_comm p.qReady _ ▸ and_not_or_left _ _) v,
      fun ⟨hstart, hintClk⟩ => normalQuirk_start_cleared hp hstart hintClk, normalQuirk_start_kept hp,
      normalQuirk_raises_iff hp v⟩
  · subst hm; rfl
  · rcases hm with rfl | rfl <;> rfl

/-! ### WOTHER (R140) -/

theorem wotherActs_claimed {off value : Word} {s : State} {d : Handle} (h : s.ctx.lookup s.ctx.mode = some d)
    (hhook : (capsOf s.params d).writeRegister = true) : wotherActs off value s = forwardActs d (.other off) value := by
  rw [wotherActs, claimant_some h hhook]

theorem wotherActs_unclaimed {off value : Word} {s : State}
    (h : ∀ d, s.ctx.lookup s.ctx.mode = some d → (capsOf s.params d).writeRegister = false) :
    wotherActs off value s = [.setOut value] := by
  rw [wotherActs, claimant_none h]

/-- Settles O36: a claimed write is the one forward, whose answer is the value returned; an unclaimed one returns its own. -/
theorem wotherResult : Obligations.WotherResult := by
  intro off value s hready
  refine ⟨fun d a rest hlookup hhook hans => ?_, fun hnone => ?_⟩
  · have hans : (s.withOut none).replies = .answer a :: rest := hans
    show perform (wotherActs off value s) s = _
    rw [perform_ready hready, wotherActs_claimed hlookup hhook, forwardActs, run_call_answered hans, run_nil, ← hready.2]
    rfl
  · show perform (wotherActs off value s) s = _
    rw [perform_ready hready, wotherActs_unclaimed hnone, run_setOut, run_nil, ← hready.2]
    rfl

end Sys2Proof.Machine
end

section
/-! The serial interrupt: which lines may raise it, and that only the quirk of an unclaimed SIOCNT write does
(41_register_gateway.md R141, R142). -/

namespace Sys2Proof.Machine

open Sys2Proof

/-! ### Lines that raise no interrupt -/

/-- The act appends no serial interrupt to the history. -/
def Act.sparesIrq : Act → Bool
  | .emit e | .call e | .callIfFailed e | .emitIfFailed e => !isIrq e
  | _ => true

theorem irqCount_emit {e : Event} (he : isIrq e = false) (s : State) : irqCount (s.emit e).hist = irqCount s.hist := by
  simp [irqCount, he]

theorem irqCount_answered (s : State) (e : Event) (x : Answer) (rs : List Reply) :
    irqCount ((s.withReplies rs).useAnswer e x).hist = irqCount s.hist :=
  congrArg irqCount (useAnswer_hist (s.withReplies rs) e x).1

theorem irqCount_apply {a : Act} (ha : a.sparesIrq = true) (r : Bool) (s : State) :
    irqCount (a.apply r s).hist = irqCount s.hist := by
  cases a with
  | emit e => exact irqCount_emit (Bool.not_eq_true' _ ▸ ha) s
  | emitIfFailed e =>
    cases r with
    | true => rfl
    | false => exact irqCount_emit (Bool.not_eq_true' _ ▸ ha) s
  | _ => rfl

/-- The call that an act waits on is no interrupt if the act raises none. -/
theorem waitsOn_sparesIrq {a : Act} (ha : a.sparesIrq = true) {r : Bool} {e : Event} (hw : a.waitsOn r = some e) :
    isIrq e = false := by
  cases a with
  | call e' => cases hw; exact Bool.not_eq_true' _ ▸ ha
  | callIfFailed e' =>
    cases r with
    | true => cases hw
    | false => cases hw; exact Bool.not_eq_true' _ ▸ ha
  | _ => cases hw

/-- Lines that raise no interrupt leave their number as it was, whether they complete or are held. -/
theorem run_sparesIrq {acts : List Act} (hacts : acts.all Act.sparesIrq = true) {r : Bool} {s t : State}
    (h : run r acts s = .next t) : irqCount t.hist = irqCount s.hist := by
  induction acts generalizing r s with
  | nil => cases h; rfl
  | cons a rest ih =>
    obtain ⟨ha, hrest⟩ := Bool.and_eq_true_iff.mp (List.all_cons ▸ hacts)
    rw [run] at h
    split at h
    · next e hw =>
      have hemit := irqCount_emit (waitsOn_sparesIrq ha hw) s
      split at h
      · next x replies _ => exact (ih hrest h).trans ((irqCount_answered _ e x replies).trans hemit)
      · cases h
      · cases h; exact hemit
    · split at h
      · cases h; rfl
      · exact (ih hrest h).trans (irqCount_apply ha r s)

theorem perform_sparesIrq {acts : List Act} (hacts : acts.all Act.sparesIrq = true) {s t : State}
    (h : perform acts s = .next t) : irqCount t.hist = irqCount s.hist :=
  run_sparesIrq hacts (s := s.withOut none) (perform_next h).2

/-! ### Which lines raise no interrupt -/

theorem hook_sparesIrq (b : Bool) {e : Event} (he : isIrq e = false) : (hook b e).all Act.sparesIrq = true := by
  cases b with
  | false => rfl
  | true => simp [hook, Act.sparesIrq, he]

@[simp] theorem unloadActs_sparesIrq (p : Params) (d : Option Handle) : (unloadActs p d).all Act.sparesIrq = true := by
  cases d with
  | none => rfl
  | some d => exact hook_sparesIrq _ rfl

@[simp] theorem loadActs_sparesIrq (p : Params) (d : Option Handle) : (loadActs p d).all Act.sparesIrq = true := by
  cases d with
  | none => rfl
  | some d => exact hook_sparesIrq _ rfl

@[simp] theorem deinitActs_sparesIrq (p : Params) (d : Option Handle) : (deinitActs p d).all Act.sparesIrq = true := by
  cases d with
  | none => rfl
  | some d => exact hook_sparesIrq _ rfl

@[simp] theorem rederiveActs_sparesIrq (p : Params) (c : SioContext) (old new : LinkMode) :
    (rederiveActs p c old new).all Act.sparesIrq = true := by
  unfold rederiveActs
  split
  · rfl
  · simp [Act.sparesIrq]

theorem forwardActs_sparesIrq (d : Handle) (reg : RegId) (v : Word) : (forwardActs d reg v).all Act.sparesIrq = true := rfl

theorem wrcntActs_sparesIrq (value : Word) (s : State) : (wrcntActs value s).all Act.sparesIrq = true := by
  unfold wrcntActs
  dsimp only
  split <;> simp [Act.sparesIrq, forwardActs_sparesIrq]

theorem wotherActs_sparesIrq (off value : Word) (s : State) : (wotherActs off value s).all Act.sparesIrq = true := by
  unfold wotherActs
  split <;> rfl

theorem resetActs_sparesIrq (s : State) : (resetActs s).all Act.sparesIrq = true := by
  simp [resetActs, Act.sparesIrq]

@[simp] theorem initActs_sparesIrq (p : Params) (d : Handle) : (initActs p d).all Act.sparesIrq = true := by
  unfold initActs
  split_ifs <;> rfl

@[simp] theorem retireActs_sparesIrq (s : State) (k : Slot) : (retireActs s k).all Act.sparesIrq = true := by
  unfold retireActs
  split <;> simp

@[simp] theorem installActs_sparesIrq (s : State) (k : Slot) (d : Option Handle) :
    (installActs s k d).all Act.sparesIrq = true := by
  unfold installActs
  split <;> simp [Act.sparesIrq]

theorem setdrvActs_sparesIrq (code : BitVec 3) (handle : Handle) (s : State) :
    (setdrvActs code handle s).all Act.sparesIrq = true := by
  unfold setdrvActs
  split
  · rfl
  · split <;> simp

theorem destroyActs_sparesIrq (s : State) : (destroyActs s).all Act.sparesIrq = true := by
  unfold destroyActs
  split <;> simp [Act.sparesIrq, isIrq]

theorem commandActs_sparesIrq (c : Command) (s : State) : (commandActs c s).all Act.sparesIrq = true := by
  cases c with
  | duplex | dns => rfl
  | send => simp only [commandActs, cmdSendActs]; split <;> rfl
  | recv => simp only [commandActs, cmdRecvActs]; split <;> rfl
  | connect => simp only [commandActs, cmdConnectActs]; split <;> rfl
  | disconnect => simp only [commandActs, cmdDisconnectActs]; split <;> rfl

theorem dataWriteActs_sparesIrq (b : Byte) (s : State) : (dataWriteActs b s).all Act.sparesIrq = true := by
  unfold dataWriteActs
  cases selectWrite s b with
  | term =>
    simp only [writeRowActs, termActs, dispatchActs]
    split
    · exact commandActs_sparesIrq _ s
    · rfl
  | payloadOut => simp only [writeRowActs, payloadOutActs]; split <;> rfl
  | duplexOut => simp only [writeRowActs, duplexOutActs]; split <;> rfl
  | _ => rfl

theorem dataReadActs_sparesIrq (s : State) : (dataReadActs s).all Act.sparesIrq = true := by
  unfold dataReadActs
  cases selectRead s with
  | nodata | estab => rfl
  | payloadIn => simp only [readRowActs, payloadInActs]; split <;> rfl
  | duplexIn => simp only [readRowActs, duplexInActs]; split <;> rfl

/-- Every request but the SIOCNT write. -/
theorem RequestLines.sparesIrq {i : Instr} {acts : State → List Act} (h : RequestLines i acts)
    (hi : ∀ value, i ≠ .wsiocnt value) (s : State) : (acts s).all Act.sparesIrq = true := by
  cases h with
  | wrcnt value => exact wrcntActs_sparesIrq value s
  | wsiocnt value => exact absurd rfl (hi value)
  | wdata value => exact dataWriteActs_sparesIrq _ s
  | rdata => exact dataReadActs_sparesIrq s
  | wother off value => exact wotherActs_sparesIrq off value s
  | reset => exact resetActs_sparesIrq s
  | setdrv code handle => exact setdrvActs_sparesIrq code handle s
  | destroy => exact destroyActs_sparesIrq s

theorem writeBytes_irqCount {bytes : List Byte} {s t : State} (h : writeBytes bytes s = .next t) :
    irqCount t.hist = irqCount s.hist := by
  induction bytes generalizing s with
  | nil => cases h; rfl
  | cons b bytes ih =>
    rw [writeBytes] at h
    split at h
    · next u hu =>
      have hirqs : irqCount u.hist = irqCount s.hist := perform_sparesIrq (dataWriteActs_sparesIrq b s) hu
      split at h
      · exact (ih h).trans hirqs
      · cases h; exact hirqs
    · cases h
    · cases h

/-! ### The SIOCNT write -/

/-- From `s` to `u` the mode became `m`; the slots and the number of interrupts stayed. -/
structure ReachesMode (s u : State) (m : LinkMode) : Prop where
  mode_eq : u.ctx.mode = m
  slot_eq : u.ctx.slot = s.ctx.slot
  irqs_eq : irqCount u.hist = irqCount s.hist

theorem ReachesMode.lookup_eq {s u : State} {m : LinkMode} (h : ReachesMode s u m) : u.ctx.lookup m = s.ctx.lookup m := by
  rw [SioContext.lookup, h.slot_eq]; rfl

/-- Calls that are no interrupts are held among them, or go on with the lines after them in the same context. -/
theorem run_calls_irqs {es : List Event} (hes : (es.map Act.call).all Act.sparesIrq = true) {rest : List Act} {r : Bool}
    {s t : State} (h : run r (es.map Act.call ++ rest) s = .next t) :
    irqCount t.hist = irqCount s.hist ∨
    ∃ r' u, u.ctx = s.ctx ∧ irqCount u.hist = irqCount s.hist ∧ run r' rest u = .next t := by
  induction es generalizing r s with
  | nil => exact .inr ⟨r, s, rfl, rfl, h⟩
  | cons e es ih =>
    obtain ⟨he, hes⟩ := Bool.and_eq_true_iff.mp (List.all_cons ▸ hes)
    have hemit := irqCount_emit (waitsOn_sparesIrq he (r := r) rfl) s
    rw [List.map_cons, List.cons_append, run] at h
    dsimp only [Act.waitsOn] at h
    split at h
    · next x replies _ =>
      have hirqs := (irqCount_answered (s.emit e) e x replies).trans hemit
      rcases ih hes h with hheld | ⟨r', u, hctx, hu, hrun⟩
      · exact .inl (hheld.trans hirqs)
      · exact .inr ⟨r', u, hctx.trans (useAnswer_ctx _ e x), hu.trans hirqs, hrun⟩
    · cases h
    · cases h; exact .inl hemit

/-- Re-derivation is held at one of its hooks, or goes on in the new mode with the slots as they were (R106). -/
theorem run_rederive_irqs {p : Params} {c : SioContext} {old new : LinkMode} {rest : List Act} {r : Bool} {s t : State}
    (h : run r (rederiveActs p c old new ++ rest) s = .next t) :
    irqCount t.hist = irqCount s.hist ∨ ∃ r' u, ReachesMode s u new ∧ run r' rest u = .next t := by
  rw [rederiveActs, List.cons_append, run_setMode] at h
  split at h
  · exact .inr ⟨r, s.withCtx { s.ctx with mode := new }, ⟨rfl, rfl, rfl⟩, h⟩
  · rw [unloadActs_eq, loadActs_eq, List.append_assoc] at h
    rcases run_calls_irqs (unloadActs_eq p _ ▸ unloadActs_sparesIrq p _) h with hheld | ⟨r₁, u₁, hctx₁, hirqs₁, h₁⟩
    · exact .inl hheld
    rw [List.cons_append, run_setActive] at h₁
    rcases run_calls_irqs (loadActs_eq p _ ▸ loadActs_sparesIrq p _) h₁ with hheld | ⟨r₂, u₂, hctx₂, hirqs₂, h₂⟩
    · exact .inl (hheld.trans hirqs₁)
    · exact .inr ⟨r₂, u₂, ⟨by rw [hctx₂, State.withCtx_ctx, hctx₁]; rfl, by rw [hctx₂, State.withCtx_ctx, hctx₁]; rfl,
        hirqs₂.trans hirqs₁⟩, h₂⟩

/-- WSIOCNT is held at a hook of its re-derivation, or goes on to the claimant or the quirk in the mode after it (R101). -/
theorem run_wsiocnt_irqs {value : Word} {s t : State} (h : run true (wsiocntActs value s) (s.withOut none) = .next t) :
    irqCount t.hist = irqCount s.hist ∨ ∃ r u, ReachesMode s u (modeAfterSiocnt value s) ∧
      run r (siocntValueActs s.params s.ctx (modeAfterSiocnt value s) value) u = .next t := by
  rw [wsiocntActs_eq] at h
  split at h
  · rw [List.cons_append, run_setSiocnt] at h
    rcases run_rederive_irqs h with hheld | ⟨r, u, ⟨hmode, hslot, hirqs⟩, hrun⟩
    · exact .inl hheld
    · exact .inr ⟨r, u, ⟨hmode, hslot, hirqs⟩, hrun⟩
  · next hsame => exact .inr ⟨true, s.withOut none, ⟨(if_neg hsame).symm, rfl, rfl⟩, h⟩

/-- The last lines of WSIOCNT raise the interrupt once, where no driver claims the write and the quirk says so, and otherwise
not at all (R101, R141). -/
theorem run_siocntValue_irqs {p : Params} {c : SioContext} {m : LinkMode} {value : Word} {r : Bool} {u t : State}
    (h : run r (siocntValueActs p c m value) u = .next t) :
    irqCount t.hist = irqCount u.hist ∨
    (irqCount t.hist = irqCount u.hist + 1 ∧ t.ctx = u.ctx ∧
      (∀ d, c.lookup m = some d → (capsOf p d).writeRegister = false) ∧ (quirk p m value).2 = true) := by
  by_cases hclaim : ∃ d, c.lookup m = some d ∧ (capsOf p d).writeRegister = true
  · obtain ⟨d, hlookup, hhook⟩ := hclaim
    rw [siocntValueActs_claimed hlookup hhook] at h
    exact .inl (run_sparesIrq (forwardActs_sparesIrq d .siocnt value) h)
  · have hnone : ∀ d, c.lookup m = some d → (capsOf p d).writeRegister = false :=
      fun d hlookup => Bool.eq_false_iff.mpr fun hhook => hclaim ⟨d, hlookup, hhook⟩
    rw [siocntValueActs_unclaimed hnone, run_quirk] at h
    cases h
    cases hraised : (quirk p m value).2 with
    | false => exact .inl (by simp)
    | true => exact .inr ⟨by simp [irqCount, isIrq], rfl, hnone, rfl⟩

/-- The quirk raises the interrupt only in a Normal mode, with all three bits set (R141, R143). -/
theorem quirk_raises {p : Params} (hp : paramsOk p = true) {m : LinkMode} {v : Word} (h : (quirk p m v).2 = true) :
    (m = .normal8 ∨ m = .normal32) ∧ v &&& p.qStart ≠ 0 ∧ v &&& p.qIntClk ≠ 0 ∧ v &&& p.qIrqEn ≠ 0 := by
  cases m with
  | normal8 => exact ⟨.inl rfl, (normalQuirk_raises_iff (quirkBitsApart hp) v).mp h⟩
  | normal32 => exact ⟨.inr rfl, (normalQuirk_raises_iff (quirkBitsApart hp) v).mp h⟩
  | multiplayer | joybus | unset => cases h

/-! ### Every instruction (R142) -/

/-- An instruction that is no SIOCNT write raises no interrupt. -/
theorem exec_irqCount {i : Instr} (hi : ∀ value, i ≠ .wsiocnt value) {s t : State} (h : exec i s = .next t) :
    irqCount t.hist = irqCount s.hist := by
  rcases instr_cases i with hreq | ⟨row, b, rfl⟩ | ⟨row, rfl⟩ | ⟨c, ps, rfl⟩
  · obtain ⟨w, -, rfl⟩ := requestsDecodeFromTheirWords i hreq
    rcases decode_lines_or_refused w with ⟨acts, hacts⟩ | ⟨why, hwhy⟩
    · exact perform_sparesIrq (hacts.sparesIrq hi s) (hacts.exec_eq s ▸ h)
    · rw [hwhy] at h; cases h
  · rw [exec_row_eq_wdata] at h
    exact perform_sparesIrq (dataWriteActs_sparesIrq _ s) h
  · rw [exec_readRow_eq_rdata] at h
    exact perform_sparesIrq (dataReadActs_sparesIrq s) h
  · exact writeBytes_irqCount (frame_exec c ps s ▸ h)

/-- Settles O22: only the SIOCNT write has a line that raises the interrupt (`exec_irqCount`); it is the last but one, in the
mode after the write, where the quirk's bits hold (`quirk_raises`). -/
theorem serialInterruptOnlyFromQuirk : Obligations.SerialInterruptOnlyFromQuirk := by
  intro i s t hp h
  by_cases hi : ∃ value, i = .wsiocnt value
  · obtain ⟨value, rfl⟩ := hi
    rcases run_wsiocnt_irqs (perform_next h).2 with hheld | ⟨r, u, hu, hrun⟩
    · exact .inl hheld
    rcases run_siocntValue_irqs hrun with hquiet | ⟨honce, hctx, hnone, hraised⟩
    · exact .inl (hquiet.trans hu.irqs_eq)
    · obtain ⟨hnormal, hbits⟩ := quirk_raises hp hraised
      rw [hctx, hu.mode_eq, hu.lookup_eq]
      exact .inr ⟨hu.irqs_eq ▸ honce, value, rfl, hnormal, hnone, hbits⟩
  · exact .inl (exec_irqCount (not_exists.mp hi) h)

end Sys2Proof.Machine
end

section
/-! The framer's rows that make no call, as one function of the relay: the result of each row, then the framer as R168 writes it
(42_relay_framer.md R160 to R168). -/

namespace Sys2Proof.Machine

open Sys2Proof

/-! ### Rows that write at most the relay's mode and buffer -/

/-- The row makes no call and does not dispatch. -/
def quietRow : WriteRow → Bool
  | .term | .payloadOut | .duplexOut => false
  | _ => true

/-- The relay after a quiet row that takes the byte `b` (R160 to R165, R167, R223). -/
def relayAfterRow (b : Byte) (r : RelayState) : WriteRow → RelayState
  | .start => { r with tmode := .parse, buf := [] }
  | .cancel00 | .cancel01 | .cancelFE | .cancelFF => { r with tmode := .idle }
  | .cmdSend => { r with buf := [0x02] }
  | .cmdRecv => { r with buf := [0x03] }
  | .cmdDuplex => { r with buf := [0x04] }
  | .cmdConnect => { r with buf := [0x05] }
  | .cmdDisconnect => { r with buf := [0x06] }
  | .cmdDns => { r with buf := [0x07] }
  | .append => { r with buf := r.buf ++ [b] }
  | .overflow => { r with tmode := .idle, buf := [] }
  | _ => r

/-- A state with nothing pending is as it was when its request finishes. -/
theorem finished_idle {s : State} (hp : s.pending = .idle) : finished s = .next s := by
  rw [finished, State.withPending, ← hp]

/-- The lines of a quiet row write what `relayAfterRow` says and nothing else. -/
theorem run_quietRow {row : WriteRow} (hquiet : quietRow row = true) (b : Byte) {s : State} (hp : s.pending = .idle) :
    run true (writeRowActs row b s) (s.withOut none) = .next { s with relay := relayAfterRow b s.relay row, out := none } := by
  refine Eq.trans (b := finished { s with relay := relayAfterRow b s.relay row, out := none }) ?_ (finished_idle hp)
  cases row with
  | term | payloadOut | duplexOut => cases hquiet
  | _ => rfl

/-- The row that a byte takes is performed by its own lines. -/
theorem exec_selectedRow {row : WriteRow} {b : Byte} {s : State} (hready : Ready s) (hrow : selectWrite s b = row) :
    exec (row.instr b) s = run true (writeRowActs row b s) (s.withOut none) := by
  rw [exec_row (hrow ▸ writeRow_byte _ _ _), row_selected hrow, perform_ready hready]

theorem exec_quietRow {row : WriteRow} {b : Byte} {s : State} (hready : Ready s) (hrow : selectWrite s b = row)
    (hquiet : quietRow row = true := by rfl) :
    exec (row.instr b) s = .next { s with relay := relayAfterRow b s.relay row, out := none } :=
  (exec_selectedRow hready hrow).trans (run_quietRow hquiet b hready.2)

/-! ### The row that a state selects (R74) -/

section

variable {s : State} {b : Byte}

theorem selectWrite_start (hidle : s.relay.tmode = .idle) : selectWrite s frameStart = .start := by
  rw [selectWrite, hidle]; rfl

theorem selectWrite_idleIgn (hidle : s.relay.tmode = .idle) (hb : b ≠ frameStart) : selectWrite s b = .idleIgn := by
  rw [selectWrite, hidle]; exact if_neg hb

theorem selectWrite_code (hparse : s.relay.tmode = .parse) (hzero : s.relay.cursor = 0) :
    selectWrite s b = firstByteRow b := by
  rw [selectWrite, hparse, hzero, writeRow_code]

theorem selectWrite_term (hparse : s.relay.tmode = .parse) (hpos : 1 ≤ s.relay.cursor) : selectWrite s frameTerm = .term := by
  rw [selectWrite, hparse, writeRow_term hpos]

theorem selectWrite_append (hparse : s.relay.tmode = .parse) (hpos : 1 ≤ s.relay.cursor) (hroom : s.relay.cursor ≤ 254)
    (hb : b ≠ frameTerm) : selectWrite s b = .append := by
  rw [selectWrite, hparse, writeRow_append hpos hroom hb]

theorem selectWrite_overflow (hparse : s.relay.tmode = .parse) (hfull : 255 ≤ s.relay.cursor) (hb : b ≠ frameTerm) :
    selectWrite s b = .overflow := by
  rw [selectWrite, hparse, writeRow_overflow hfull hb]

theorem selectWrite_xferIgn (h : s.relay.tmode = .recv ∨ s.relay.tmode = .estab ∨ s.relay.tmode = .reserved) :
    selectWrite s b = .xferIgn := by
  rcases h with h | h | h <;> rw [selectWrite, h] <;> rfl

end

/-! ### Each row -/

/-- Settles O40. -/
theorem startOpensFrame : Obligations.StartOpensFrame := fun _ hready hidle =>
  exec_quietRow hready (selectWrite_start hidle)

/-- Settles O41: three rows that leave the relay as it is, each where the table selects it. -/
theorem ignoredBytesChangeNothing : Obligations.IgnoredBytesChangeNothing := fun b _ hready =>
  ⟨fun hidle hb => exec_quietRow hready (selectWrite_idleIgn hidle hb),
    fun hparse hzero hlow hhigh =>
      exec_quietRow hready ((selectWrite_code hparse hzero).trans (codeDrop_of b hlow hhigh)),
    fun hxfer => exec_quietRow (b := b) hready (selectWrite_xferIgn hxfer)⟩

/-- Settles O42: the table's four cancel rows. -/
theorem cancelBytesEndFrame : Obligations.CancelBytesEndFrame := by
  intro s hready hparse hzero
  have hcode (b : Byte) : selectWrite s b = firstByteRow b := selectWrite_code hparse hzero
  exact ⟨exec_quietRow hready (hcode 0x00), exec_quietRow hready (hcode 0x01), exec_quietRow hready (hcode 0xFE),
    exec_quietRow hready (hcode 0xFF)⟩

/-- Settles O43: the table's six code rows. -/
theorem commandCodesStored : Obligations.CommandCodesStored := by
  intro s hready hparse hzero
  have hcode (b : Byte) : selectWrite s b = firstByteRow b := selectWrite_code hparse hzero
  exact ⟨exec_quietRow hready (hcode 0x02), exec_quietRow hready (hcode 0x03), exec_quietRow hready (hcode 0x04),
    exec_quietRow hready (hcode 0x05), exec_quietRow hready (hcode 0x06), exec_quietRow hready (hcode 0x07)⟩

/-- Settles O44: the buffer has room up to a cursor of 254. -/
theorem appendOrOverflow : Obligations.AppendOrOverflow := fun _ _ hready hparse hb =>
  ⟨fun hpos hroom => exec_quietRow hready (selectWrite_append hparse hpos hroom hb),
    fun hfull => exec_quietRow hready (selectWrite_overflow hparse hfull.ge hb)⟩

/-! ### The framer as one function (R168) -/

/-- A first byte is one of the four that cancel, one of the six codes, or it is dropped (R162, R164, R165). -/
theorem framerTook_code {r : RelayState} (hparse : r.tmode = .parse) (hzero : r.cursor = 0) (b : Byte) :
    quietRow (firstByteRow b) = true ∧ relayAfterRow b r (firstByteRow b) = framerTook r b := by
  have hcodes : ∀ b : Byte, 0x02 ≤ b ∧ b ≤ 0x07 → b ∈ [0x02, 0x03, 0x04, 0x05, 0x06, 0x07] := by decide
  have hdropped : ∀ b : Byte, ¬(b = 0x00 ∨ b = 0x01 ∨ b = 0xFE ∨ b = 0xFF) → ¬(0x02 ≤ b ∧ b ≤ 0x07) →
    firstByteRow b = .codeDrop := by decide
  rw [framerTook, if_neg (by simp [hparse]), if_pos hzero]
  split_ifs with hcancel hcode
  · rcases hcancel with rfl | rfl | rfl | rfl <;> exact ⟨rfl, rfl⟩
  · have hb := hcodes b hcode
    simp only [List.mem_cons, List.not_mem_nil, or_false] at hb
    rcases hb with rfl | rfl | rfl | rfl | rfl | rfl <;> exact ⟨rfl, rfl⟩
  · rw [hdropped b hcancel hcode]; exact ⟨rfl, rfl⟩

/-- In Idle and Parse the row of a byte that does not dispatch is quiet and leaves what the framer's function says. -/
theorem framerTook_row {r : RelayState} (hmode : r.tmode = .idle ∨ r.tmode = .parse) {b : Byte}
    (hb : r.tmode = .idle ∨ r.cursor = 0 ∨ b ≠ frameTerm) :
    quietRow (writeRow r.tmode r.cursor b) = true ∧
      relayAfterRow b r (writeRow r.tmode r.cursor b) = framerTook r b := by
  rcases hmode with hidle | hparse
  · rw [hidle, writeRow, framerTook, if_pos hidle]
    split_ifs <;> exact ⟨rfl, rfl⟩
  · by_cases hzero : r.cursor = 0
    · rw [hparse, hzero, writeRow_code]; exact framerTook_code hparse hzero b
    · have hidle : r.tmode ≠ .idle := by simp [hparse]
      have hterm : b ≠ frameTerm := (hb.resolve_left hidle).resolve_left hzero
      rw [hparse, writeRow, if_neg hzero, if_neg hterm, framerTook, if_neg hidle, if_neg hzero]
      split_ifs <;> exact ⟨rfl, rfl⟩

/-- A DATA write is performed as the row that its byte takes, which is the table's (`dataRequestsTakeTheirRow`). -/
theorem exec_wdata_row (value : Word) (s : State) :
    exec (.wdata value) s = exec ((selectWrite s (lowByte value)).instr (lowByte value)) s :=
  dataRequestsTakeTheirRow.1 value s

theorem exec_wdata_framer {s : State} (hready : Ready s) (hmode : s.relay.tmode = .idle ∨ s.relay.tmode = .parse)
    {value : Word} (hb : s.relay.tmode = .idle ∨ s.relay.cursor = 0 ∨ lowByte value ≠ frameTerm) :
    exec (.wdata value) s = .next { s with relay := framerTook s.relay (lowByte value), out := none } := by
  obtain ⟨hquiet, htook⟩ := framerTook_row hmode hb
  rw [exec_wdata_row, exec_quietRow hready rfl hquiet, selectWrite, htook]

/-- Settles O39: the row that the byte takes leaves what the framer's function says (`framerTook_row`), or is the
terminator's. -/
theorem framerWriteResult : Obligations.FramerWriteResult := by
  refine fun value s hready hmode => ⟨exec_wdata_framer hready hmode, fun hparse hpos hterm => ?_⟩
  rw [exec_wdata_row, hterm, selectWrite_term hparse hpos]; rfl

end Sys2Proof.Machine
end

section
/-! The terminator: what each command does when its frame ends (42_relay_framer.md R166; 43_relay_commands.md R190 to R197). -/

namespace Sys2Proof.Machine

open Sys2Proof

section

variable {c : Command} {ps : List Byte} {s : State}

/-! ### Which lines a command has (R191 to R197) -/

/-- Seven buffered bytes are a code and six payload bytes (R76, R191). -/
theorem enoughBytes_iff (hbuf : s.relay.buf = c.code :: ps) : enoughBytes s.relay = true ↔ 6 ≤ ps.length := by
  simp [enoughBytes, hbuf]

theorem cmdSendActs_of (hbuf : s.relay.buf = c.code :: ps) (hlen : 6 ≤ ps.length) (hsock : s.relay.sock ≠ none) :
    cmdSendActs s = [.setCrc (field32 s.relay.buf), .setLength (field16 s.relay.buf),
      .call (.sockSend (headerOf s.relay)), .setTmode .send, .setOutCount 0] :=
  if_pos (by simp [(enoughBytes_iff hbuf).mpr hlen, Option.isSome_iff_ne_none.mpr hsock])

theorem cmdSendActs_nil (hbuf : s.relay.buf = c.code :: ps) (h : ps.length < 6 ∨ s.relay.sock = none) : cmdSendActs s = [] :=
  if_neg (by
    rw [Bool.and_eq_true, enoughBytes_iff hbuf, Option.isSome_iff_ne_none]
    exact fun ⟨hlen, hsock⟩ => h.elim (Nat.not_lt.mpr hlen) hsock)

theorem cmdConnectActs_of (hbuf : s.relay.buf = c.code :: ps) (hlen : 6 ≤ ps.length) (hsock : s.relay.sock = none) :
    cmdConnectActs s = [.setPendAddr (field32 s.relay.buf), .setPendPort (field16 s.relay.buf),
      .call (.sockConnect s.params.connectAddr s.params.connectPort), .setTmode .estab, .setTmode .idle] :=
  if_pos (by simp [(enoughBytes_iff hbuf).mpr hlen, hsock])

theorem cmdConnectActs_nil (hbuf : s.relay.buf = c.code :: ps) (h : ps.length < 6 ∨ s.relay.sock ≠ none) :
    cmdConnectActs s = [] :=
  if_neg (by
    rw [Bool.and_eq_true, enoughBytes_iff hbuf, Option.isNone_iff_eq_none]
    exact fun ⟨hlen, hsock⟩ => h.elim (Nat.not_lt.mpr hlen) fun hopen => hopen hsock)

/-! ### Dispatch (R190) -/

/-- A terminator ends the frame and runs the stored command's lines in Idle (R166, R190). -/
theorem exec_term (hready : Ready s) (hparse : s.relay.tmode = .parse) (hbuf : s.relay.buf = c.code :: ps) :
    exec .wdataTerm s =
      run true (commandActs c s) { s with relay := { s.relay with tmode := .idle }, out := none } := by
  have hrow : selectWrite s frameTerm = .term := selectWrite_term hparse (by simp [hbuf])
  have hlines : writeRowActs .term frameTerm s = .setTmode .idle :: commandActs c s := dispatch_eq hbuf
  exact (exec_selectedRow hready hrow).trans (by rw [hlines]; rfl)

/-- A command without lines only ends its frame. -/
theorem exec_term_ends (hready : Ready s) (hparse : s.relay.tmode = .parse) (hbuf : s.relay.buf = c.code :: ps)
    (hacts : commandActs c s = []) :
    exec .wdataTerm s = .next { s with relay := { s.relay with tmode := .idle }, out := none } := by
  rw [exec_term hready hparse hbuf, hacts]
  exact finished_idle hready.2

/-- A connect answered where no socket is open leaves one exactly if the answer is ok, and then counts it (R195, R263). -/
theorem useConnect_of_closed (hsock : s.relay.sock = none) (a : Answer) :
    s.useConnect a = { s with
      relay := { s.relay with sock := if a.ok then some (s.freshHandle a) else none }
      connects := s.connects + if a.ok then 1 else 0 } := by
  rcases useConnect_cases s a with ⟨hok, h⟩ | ⟨hok, h⟩ <;> rw [h, hok]
  · rw [if_neg Bool.false_ne_true, ← hsock]; rfl
  · rfl

theorem exec_term_send (hready : Ready s) (hparse : s.relay.tmode = .parse) (hbuf : s.relay.buf = Command.send.code :: ps)
    (hlen : 6 ≤ ps.length) (hsock : s.relay.sock ≠ none) {a : Answer} {rest : List Reply} (hans : Answered s [a] rest) :
    exec .wdataTerm s = .next { s with
      relay := sendStarted s.relay, hist := s.hist ++ [.sockSend (headerOf s.relay)], out := none, replies := rest } := by
  have hacts : commandActs .send s = _ := cmdSendActs_of hbuf hlen hsock
  rw [exec_term hready hparse hbuf, hacts, run_setCrc, run_setLength]
  refine (run_call_answered (x := a) (replies := rest) ?_ true _ _).trans ?_
  · exact hans
  · exact finished_idle hready.2

theorem exec_term_recv (hready : Ready s) (hparse : s.relay.tmode = .parse) (hbuf : s.relay.buf = Command.recv.code :: ps)
    (hsock : s.relay.sock ≠ none) :
    exec .wdataTerm s = .next { s with relay := { s.relay with tmode := .recv, inCount := 0 }, out := none } := by
  have hacts : commandActs .recv s = [.setTmode .recv, .setInCount 0] := if_pos (Option.isSome_iff_ne_none.mpr hsock)
  rw [exec_term hready hparse hbuf, hacts, run_setTmode, run_setInCount]
  exact finished_idle hready.2

theorem exec_term_connect (hready : Ready s) (hparse : s.relay.tmode = .parse)
    (hbuf : s.relay.buf = Command.connect.code :: ps) (hlen : 6 ≤ ps.length) (hsock : s.relay.sock = none) {a : Answer}
    {rest : List Reply} (hans : Answered s [a] rest) :
    exec .wdataTerm s = .next { s with
      relay := connected s.relay (if a.ok then some (s.freshHandle a) else none)
      connects := s.connects + (if a.ok then 1 else 0)
      hist := s.hist ++ [.sockConnect s.params.connectAddr s.params.connectPort]
      out := none
      replies := rest } := by
  have hacts : commandActs .connect s = _ := cmdConnectActs_of hbuf hlen hsock
  rw [exec_term hready hparse hbuf, hacts, run_setPendAddr, run_setPendPort]
  refine (run_call_answered (x := a) (replies := rest) ?_ true _ _).trans ?_
  · exact hans
  · rw [State.useAnswer, useConnect_of_closed]
    exacts [finished_idle hready.2, hsock]

theorem exec_term_disconnect (hready : Ready s) (hparse : s.relay.tmode = .parse)
    (hbuf : s.relay.buf = Command.disconnect.code :: ps) {h : SockHandle} (hsock : s.relay.sock = some h) {a : Answer}
    {rest : List Reply} (hans : Answered s [a] rest) :
    exec .wdataTerm s = .next { s with
      relay := { s.relay with tmode := .idle, sock := none }
      hist := s.hist ++ [.sockClose h]
      out := none
      replies := rest } := by
  have hacts : commandActs .disconnect s = [.call (.sockClose h), .setSock none] := by
    simp only [commandActs, cmdDisconnectActs, hsock]
  rw [exec_term hready hparse hbuf, hacts]
  refine (run_call_answered (x := a) (replies := rest) ?_ true _ _).trans ?_
  · exact hans
  · exact finished_idle hready.2

end

/-- Settles O45: a command runs its lines in Idle (`exec_term`), and where its precondition fails, or it has none, no line is
left and the frame only ends (`exec_term_ends`). -/
theorem termDispatches : Obligations.TermDispatches := by
  intro c ps s hready hparse hbuf
  have hends (hacts : commandActs c s = []) := exec_term_ends hready hparse hbuf hacts
  cases c with
  | send =>
    exact ⟨fun _ _ hlen hsock hans => exec_term_send hready hparse hbuf hlen hsock hans,
      fun hpre => hends (cmdSendActs_nil hbuf hpre)⟩
  | recv =>
    dsimp only
    split_ifs with hsock
    · exact hends (if_neg (by simp [hsock]))
    · exact exec_term_recv hready hparse hbuf hsock
  | connect =>
    exact ⟨fun _ _ hlen hsock hans => exec_term_connect hready hparse hbuf hlen hsock hans,
      fun hpre => hends (cmdConnectActs_nil hbuf hpre)⟩
  | disconnect =>
    exact ⟨fun _ _ _ hsock hans => exec_term_disconnect hready hparse hbuf hsock hans,
      fun hsock => hends (by simp only [commandActs, cmdDisconnectActs, hsock])⟩
  | duplex | dns => exact hends rfl

end Sys2Proof.Machine
end

section
/-! Byte sequences of a frame: a payload is stored in order, and ends in the terminator's effect or in an overflow
(42_relay_framer.md R169, R170). -/

namespace Sys2Proof.Machine

open Sys2Proof

/-- Bytes that complete can be written in two parts. -/
theorem writeBytes_append {xs ys : List Byte} {s t : State} (h : writeBytes xs s = .next t) (ht : t.pending = .idle) :
    writeBytes (xs ++ ys) s = writeBytes ys t := by
  induction xs generalizing s with
  | nil => cases h; rfl
  | cons b xs ih =>
    rw [writeBytes] at h
    rw [List.cons_append, writeBytes]
    split at h
    · next u hu =>
      split at h
      · next hidle => simp only [hidle, if_true, ih h]
      · next hheld => cases h; exact absurd ht hheld
    · cases h
    · cases h

/-- A byte that the framer takes in, and the bytes after it. -/
theorem writeBytes_framer {b : Byte} {bs : List Byte} {s : State} {r : RelayState} {v : Option Word} (hready : Ready s)
    (hmode : r.tmode = .idle ∨ r.tmode = .parse) (hb : r.tmode = .idle ∨ r.cursor = 0 ∨ b ≠ frameTerm) :
    writeBytes (b :: bs) { s with relay := r, out := v } =
      writeBytes bs { s with relay := framerTook r b, out := none } := by
  refine writeBytes_cons ?_ hready.2
  rw [← lowByte_zext16 b] at hb
  have hexec := exec_wdata_framer (s := { s with relay := r, out := v }) hready hmode hb
  rwa [lowByte_zext16] at hexec

theorem framerTook_start {r : RelayState} (hidle : r.tmode = .idle) :
    framerTook r frameStart = { r with tmode := .parse, buf := [] } := by
  rw [framerTook, if_pos hidle]; rfl

theorem framerTook_command {r : RelayState} (hparse : r.tmode = .parse) (hzero : r.cursor = 0) (c : Command) :
    framerTook r c.code = { r with buf := [c.code] } := by
  rw [← (framerTook_code hparse hzero c.code).2]
  cases c <;> rfl

theorem framerTook_append {r : RelayState} (hparse : r.tmode = .parse) (hpos : 1 ≤ r.cursor) (hroom : r.cursor ≤ 254)
    (b : Byte) : framerTook r b = { r with buf := r.buf ++ [b] } := by
  rw [framerTook, if_neg (by simp [hparse]), if_neg (Nat.ne_zero_of_lt hpos), if_pos (Nat.lt_succ_of_le hroom)]

theorem framerTook_overflow {r : RelayState} (hparse : r.tmode = .parse) (hfull : r.cursor = 255) (b : Byte) :
    framerTook r b = { r with tmode := .idle, buf := [] } := by
  rw [framerTook, if_neg (by simp [hparse]), hfull]; rfl

/-- Payload bytes are stored in order while the buffer has room (R163). -/
theorem writeBytes_payload {bs : List Byte} {s : State} {r : RelayState} (hready : Ready s) (hparse : r.tmode = .parse)
    (hpos : 1 ≤ r.cursor) (hroom : r.cursor + bs.length ≤ 255) (hbs : frameTerm ∉ bs) :
    writeBytes bs { s with relay := r, out := none } =
      .next { s with relay := { r with buf := r.buf ++ bs }, out := none } := by
  induction bs generalizing r with
  | nil => rw [List.append_nil]; rfl
  | cons b bs ih =>
    obtain ⟨hb, hbs⟩ := not_or.mp (List.mem_cons.not.mp hbs)
    rw [RelayState.cursor_eq, List.length_cons] at hroom
    have hrest := ih (r := { r with buf := r.buf ++ [b] }) hparse (by simp) (by simp; omega) hbs
    rw [writeBytes_framer hready (.inr hparse) (.inr (.inr (Ne.symm hb))), framerTook_append hparse hpos
      (show r.buf.length ≤ 254 by omega), hrest, List.append_assoc]
    rfl

/-- One byte more than the buffer holds discards the frame (R167). -/
theorem writeBytes_overflow {b : Byte} {s : State} {r : RelayState} (hready : Ready s) (hparse : r.tmode = .parse)
    (hfull : r.cursor = 255) (hb : b ≠ frameTerm) :
    writeBytes [b] { s with relay := r, out := none } =
      .next { s with relay := { r with tmode := .idle, buf := [] }, out := none } := by
  rw [writeBytes_framer hready (.inr hparse) (.inr (.inr hb)), framerTook_overflow hparse hfull]; rfl

/-- What the request before the bytes returned is forgotten with the first of them. -/
theorem writeBytes_withOut {bs : List Byte} (hne : bs ≠ []) (s : State) :
    writeBytes bs (s.withOut none) = writeBytes bs s := by
  cases bs with
  | nil => exact absurd rfl hne
  | cons b bs => rfl

/-- In Idle a frame's bytes up to the terminator leave its code and payload in the buffer (R169). -/
theorem writeBytes_frame {c : Command} {ps : List Byte} {s : State} (hready : Ready s) (hidle : s.relay.tmode = .idle)
    (hlen : ps.length ≤ 254) (hps : frameTerm ∉ ps) :
    writeBytes (frameStart :: c.code :: ps) s =
      .next { s with relay := { s.relay with tmode := .parse, buf := c.code :: ps }, out := none } := by
  rw [writeBytes_framer hready (.inl hidle) (.inl hidle), framerTook_start hidle,
    writeBytes_framer hready (.inr rfl) (.inr (.inl rfl)), framerTook_command rfl rfl]
  exact writeBytes_payload hready rfl le_rfl (by simp; omega) hps

/-- Settles O51: the code is stored at cursor 0 and the payload after it (`writeBytes_frame`); a frame is these bytes and the
terminator. -/
theorem frameReachesDispatch : Obligations.FrameReachesDispatch := by
  intro c ps s hready hidle hfits
  obtain ⟨hlen, hps⟩ := (payloadFits_iff ps).mp hfits
  have hstored := writeBytes_frame (c := c) hready hidle hlen hps
  refine ⟨hstored, ?_⟩
  rw [frame_exec, show frameBytes c ps = (frameStart :: c.code :: ps) ++ [frameTerm] from rfl,
    writeBytes_append hstored hready.2, writeBytes_last]
  exact (exec_row_eq_wdata .term 0 _).symm

/-- Settles O52: 254 bytes after the code fill the buffer (`writeBytes_payload`), and one more overflows it. -/
theorem overflowAfter255Bytes : Obligations.OverflowAfter255Bytes := by
  intro c ps s hready hparse hbuf hterm
  have hps : frameTerm ∉ ps := by simpa using hterm
  have hcursor : s.relay.cursor = 1 := by simp [hbuf]
  have hstored {bs : List Byte} (hne : bs ≠ []) (hlen : bs.length ≤ 254) (hbs : frameTerm ∉ bs) :
      writeBytes bs s = .next { s with relay := { s.relay with buf := c.code :: bs }, out := none } := by
    have hrun := writeBytes_payload (r := s.relay) hready hparse hcursor.ge (by omega) hbs
    rw [hbuf] at hrun
    exact (writeBytes_withOut hne s).symm.trans hrun
  refine ⟨fun hlen => ?_, fun hpos hlen => hstored (List.ne_nil_of_length_pos hpos) hlen hps⟩
  obtain rfl | ⟨front, last, rfl⟩ := List.eq_nil_or_concat' ps
  · cases hlen
  have hfront : front.length = 254 := by simpa using hlen
  obtain ⟨hterm, hlast⟩ : frameTerm ∉ front ∧ last ≠ frameTerm := by
    simpa [eq_comm] using hps
  rw [writeBytes_append (hstored (by rintro rfl; cases hfront) hfront.le hterm) hready.2]
  exact writeBytes_overflow (r := { s.relay with buf := c.code :: front }) hready hparse (by simp [hfront]) hlast

end Sys2Proof.Machine
end

section
/-! The one way into Parse: which lines enter it, and that every other instruction leaves a relay outside Parse there
(42_relay_framer.md R160). -/

namespace Sys2Proof.Machine

open Sys2Proof

/-! ### Runs that do not enter Parse -/

theorem useAnswer_tmode (s : State) (e : Event) (x : Answer) : (s.useAnswer e x).relay.tmode = s.relay.tmode := by
  cases e with
  | drvWrite d reg v => cases reg <;> rfl
  | sockConnect => rcases useConnect_cases s x with ⟨-, h⟩ | ⟨-, h⟩ <;> rw [State.useAnswer, h]
  | _ => rfl

/-- Only the line that enters Parse does. -/
theorem apply_outside_parse {a : Act} (ha : a ≠ .setTmode .parse) (r : Bool) {s : State} (hs : s.relay.tmode ≠ .parse) :
    (a.apply r s).relay.tmode ≠ .parse := by
  cases a with
  | setTmode t => exact fun h => ha (congrArg Act.setTmode h)
  | emitIfFailed e => cases r <;> exact hs
  | _ => exact hs

/-- Lines that hold none that enters Parse leave the relay outside it, whether they complete or are held. -/
theorem run_outside_parse {acts : List Act} (hacts : Act.setTmode .parse ∉ acts) {r : Bool} {s t : State}
    (hs : s.relay.tmode ≠ .parse) (h : run r acts s = .next t) : t.relay.tmode ≠ .parse := by
  induction acts generalizing r s with
  | nil => cases h; exact hs
  | cons a rest ih =>
    obtain ⟨ha, hrest⟩ := not_or.mp (List.mem_cons.not.mp hacts)
    rw [run] at h
    split at h
    · split at h
      · exact ih hrest (by rwa [useAnswer_tmode]) h
      · cases h
      · cases h; exact hs
    · split at h
      · cases h; exact hs
      · exact ih hrest (apply_outside_parse (Ne.symm ha) r hs) h

/-! ### Which lines enter Parse -/

theorem sparesRelay_no_parse {acts : List Act} (hacts : acts.all Act.sparesRelay = true) : Act.setTmode .parse ∉ acts :=
  fun hmem => Bool.false_ne_true (List.all_eq_true.mp hacts _ hmem)

theorem destroyActs_no_parse (s : State) : Act.setTmode .parse ∉ destroyActs s := by
  rw [destroyActs_eq]
  simp

theorem payloadOutActs_no_parse (b : Byte) (s : State) : Act.setTmode .parse ∉ payloadOutActs b s := by
  unfold payloadOutActs
  split <;> simp

theorem duplexOutActs_no_parse (b : Byte) (s : State) : Act.setTmode .parse ∉ duplexOutActs b s := by
  unfold duplexOutActs
  split <;> simp

theorem dataReadActs_no_parse (s : State) : Act.setTmode .parse ∉ dataReadActs s := by
  unfold dataReadActs
  cases selectRead s with
  | nodata | estab => simp [readRowActs, nodataActs, estabActs]
  | payloadIn => simp only [readRowActs, payloadInActs]; split <;> simp
  | duplexIn => simp only [readRowActs, duplexInActs]; split <;> simp

/-- Outside Parse the only row that enters it is START, of 0x89 in Idle (R160). -/
theorem dataWriteActs_enters_parse {b : Byte} {s : State} (hs : s.relay.tmode ≠ .parse)
    (hmem : Act.setTmode .parse ∈ dataWriteActs b s) : s.relay.tmode = .idle ∧ b = frameStart := by
  unfold dataWriteActs selectWrite at hmem
  cases ht : s.relay.tmode with
  | idle =>
    refine ⟨rfl, by_contra fun hb => ?_⟩
    rw [ht, writeRow, if_neg hb] at hmem
    cases hmem
  | parse => exact absurd ht hs
  | send => rw [ht] at hmem; exact absurd hmem (payloadOutActs_no_parse b s)
  | sendRecv => rw [ht] at hmem; exact absurd hmem (duplexOutActs_no_parse b s)
  | recv | estab | reserved => rw [ht] at hmem; cases hmem

/-- The requests but the DATA write hold no line that enters Parse. -/
theorem RequestLines.enters_parse {i : Instr} {acts : State → List Act} (h : RequestLines i acts) {s : State}
    (hmem : Act.setTmode .parse ∈ acts s) : ∃ value, i = .wdata value := by
  cases h with
  | wdata value => exact ⟨value, rfl⟩
  | wrcnt value => exact absurd hmem (sparesRelay_no_parse (wrcntActs_sparesRelay value s))
  | wsiocnt value => exact absurd hmem (sparesRelay_no_parse (wsiocntActs_sparesRelay value s))
  | rdata => exact absurd hmem (dataReadActs_no_parse s)
  | wother off value => exact absurd hmem (sparesRelay_no_parse (wotherActs_sparesRelay off value s))
  | reset => exact absurd hmem (sparesRelay_no_parse (resetActs_sparesRelay s))
  | setdrv code handle => exact absurd hmem (sparesRelay_no_parse (setdrvActs_sparesRelay code handle s))
  | destroy => exact absurd hmem (destroyActs_no_parse s)

/-! ### Every instruction but the frames -/

/-- A request that takes the relay into Parse has a line that does. -/
theorem perform_enters_parse {acts : List Act} {s t : State} (h : perform acts s = .next t) (hs : s.relay.tmode ≠ .parse)
    (ht : t.relay.tmode = .parse) : Act.setTmode .parse ∈ acts :=
  by_contra fun hacts => run_outside_parse hacts (s := s.withOut none) hs (perform_next h).2 ht

theorem exec_wdata_enters_parse {value : Word} {s t : State} (h : exec (.wdata value) s = .next t)
    (hs : s.relay.tmode ≠ .parse) (ht : t.relay.tmode = .parse) : s.relay.tmode = .idle ∧ lowByte value = frameStart :=
  dataWriteActs_enters_parse hs (perform_enters_parse h hs ht)

theorem opField_dataWord (b : Byte) : opField (dataWord b) = 0x3 := opField_requestWord _ _ _

theorem lowByte_dataWord (b : Byte) : lowByte (dataField (dataWord b)) = b := by
  rw [dataWord, dataField_requestWord, lowByte_zext16]

/-- Settles O21: of the requests only the DATA write has a line that enters Parse, outside Parse only for 0x89 in Idle; a row
is its request. -/
theorem parseEnteredOnlyByStart : Obligations.ParseEnteredOnlyByStart := by
  intro i s t hframe h hs ht
  rcases instr_cases i with hreq | ⟨row, b, rfl⟩ | ⟨row, rfl⟩ | ⟨c, ps, rfl⟩
  · obtain ⟨w, hword, rfl⟩ := requestsDecodeFromTheirWords i hreq
    rcases decode_lines_or_refused w with ⟨acts, hacts⟩ | ⟨why, hwhy⟩
    · obtain ⟨value, hi⟩ := hacts.enters_parse (perform_enters_parse (hacts.exec_eq s ▸ h) hs ht)
      rw [hi] at h ⊢
      obtain ⟨hidle, hstart⟩ := exec_wdata_enters_parse h hs ht
      exact ⟨hidle, _, rfl, opField_requestWord _ _ _, by rwa [dataField_requestWord]⟩
    · rw [hwhy] at h; cases h
  · rw [exec_row_eq_wdata] at h
    obtain ⟨hidle, hstart⟩ := exec_wdata_enters_parse h hs ht
    rw [lowByte_zext16] at hstart
    exact ⟨hidle, _, encode_row row b, opField_dataWord _, (lowByte_dataWord _).trans hstart⟩
  · rw [exec_readRow_eq_rdata] at h
    exact absurd (perform_enters_parse h hs ht) (dataReadActs_no_parse s)
  · cases c <;> cases hframe

end Sys2Proof.Machine
end

section
/-! Whole frames from Idle: a frame is stored, and its terminator then does what the stored command does
(42_relay_framer.md R169; 43_relay_commands.md R190 to R197). -/

namespace Sys2Proof.Machine

open Sys2Proof

/-- A relay in Idle is as it was when it is put in Idle. -/
theorem toIdle_of_idle {r : RelayState} (h : r.tmode = .idle) : { r with tmode := .idle } = r := by
  rw [← h]

/-- Without a socket Recv has no lines (R193). -/
theorem cmdRecvActs_nil {s : State} (hsock : s.relay.sock = none) : cmdRecvActs s = [] :=
  if_neg (by simp [hsock])

/-- Without a socket Disconnect has no lines (R196). -/
theorem cmdDisconnectActs_nil {s : State} (hsock : s.relay.sock = none) : cmdDisconnectActs s = [] := by
  simp only [cmdDisconnectActs, hsock]

/-- The state in which the terminator of a frame of command `c` finds the block (R169). -/
def State.framed (s : State) (c : Command) (ps : List Byte) : State :=
  { s with relay := { s.relay with tmode := .parse, buf := c.code :: ps }, out := none }

section

variable {ps : List Byte} {s : State} (hready : Ready s) (hidle : s.relay.tmode = .idle) (hfits : payloadFits ps = true)

include hready hidle hfits

/-- A frame from Idle is its terminator, with the code and the payload stored (`frameReachesDispatch`). -/
theorem exec_frame (c : Command) : exec (c.instr ps) s = exec .wdataTerm (s.framed c ps) :=
  (frameReachesDispatch c ps s hready hidle hfits).2

/-- A frame whose command has no lines only fills the buffer. -/
theorem exec_frame_ends {c : Command} (hacts : commandActs c (s.framed c ps) = []) :
    exec (c.instr ps) s = .next { s with relay := { s.relay with buf := c.code :: ps }, out := none } := by
  rw [exec_frame hready hidle hfits, exec_term_ends (s := s.framed c ps) hready rfl rfl hacts,
    ← toIdle_of_idle (r := { s.relay with buf := c.code :: ps }) hidle]
  rfl

end

/-- R263: the next connect's handle has a serial that no handle held so far reaches. -/
theorem Settled.freshHandle_not_everHeld {s : State} (hs : Settled s) (a : Answer) : ¬ everHeld s (s.freshHandle a) :=
  fun hheld => lt_irrefl _ (hs.handles_counted _ hheld)

/-! ### Each command's frame -/

/-- Settles O53: the terminator dispatches Send from the stored frame, or the command has no lines (R191, R192). -/
theorem sendFrameResult : Obligations.SendFrameResult := fun ps s hready hidle hfits =>
  ⟨fun _ _ hlen hsock hans => (exec_frame hready hidle hfits .send).trans
      (exec_term_send (s := s.framed .send ps) hready rfl rfl hlen hsock hans),
    fun hpre => exec_frame_ends hready hidle hfits (c := .send) (cmdSendActs_nil rfl hpre)⟩

/-- Settles O54: Recv has lines exactly if there is a socket (R193). -/
theorem recvFrameResult : Obligations.RecvFrameResult := by
  intro ps s hready hidle hfits
  dsimp only
  split_ifs with hsock
  · exact (exec_frame hready hidle hfits .recv).trans (exec_term_recv (s := s.framed .recv ps) hready rfl rfl hsock)
  · exact exec_frame_ends hready hidle hfits (c := .recv) (cmdRecvActs_nil (not_not.mp hsock))

/-- Settles O55: Duplex and DNS have no lines (R194, R197). -/
theorem unimplementedFramesResult : Obligations.UnimplementedFramesResult := fun _ _ hready hidle hfits =>
  ⟨exec_frame_ends hready hidle hfits (c := .duplex) rfl, exec_frame_ends hready hidle hfits (c := .dns) rfl⟩

/-- Settles O56: the terminator dispatches Connect from the stored frame, or the command has no lines (R191, R195). -/
theorem connectFrameResult : Obligations.ConnectFrameResult := fun ps s hready hidle hfits =>
  ⟨fun _ _ hlen hsock hans => (exec_frame hready hidle hfits .connect).trans
      (exec_term_connect (s := s.framed .connect ps) hready rfl rfl hlen hsock hans),
    fun hpre => exec_frame_ends hready hidle hfits (c := .connect) (cmdConnectActs_nil rfl hpre),
    fun hs => hs.freshHandle_not_everHeld⟩

/-- Settles O57: Disconnect closes the socket that is there, and has no lines where none is (R196). -/
theorem disconnectFrameResult : Obligations.DisconnectFrameResult := by
  refine fun ps s hready hidle hfits => ⟨fun h a rest hsock hans => ?_, fun hsock => ?_⟩
  · rw [← toIdle_of_idle (r := { s.relay with buf := 0x06 :: ps, sock := none }) hidle]
    exact (exec_frame hready hidle hfits .disconnect).trans
      (exec_term_disconnect (s := s.framed .disconnect ps) hready rfl rfl hsock hans)
  · exact exec_frame_ends hready hidle hfits (c := .disconnect) (cmdDisconnectActs_nil hsock)

end Sys2Proof.Machine
end

section
/-! The data register apart from the SIOContext: the lines of its requests, and the answers to their calls, neither read nor
write it (20_memory.md R65; 44_relay_transfer.md R220, R221). -/

namespace Sys2Proof.Machine

open Sys2Proof

/-! ### The SIOContext set aside -/

theorem unobserved_withCtx (c : SioContext) : Unobserved (·.withCtx c) where
  replies_eq _ := rfl
  pending_eq _ := rfl
  emit_comm _ _ := rfl
  withOut_comm _ _ := rfl
  withPending_comm _ _ := rfl
  withReplies_comm _ _ := rfl

/-- The act writes no field of the SIOContext. -/
def Act.sparesCtx : Act → Bool
  | .setRcnt _ | .setSiocnt _ | .setMode _ | .setActive _ | .setSlot _ _ | .setAlive _ => false
  | _ => true

theorem useAnswer_withCtx (s : State) (c : SioContext) (e : Event) (x : Answer) :
    (s.withCtx c).useAnswer e x = (s.useAnswer e x).withCtx c := by
  cases e with
  | drvWrite d reg v => cases reg <;> rfl
  | sockConnect => simp only [State.useAnswer, State.useConnect]; split <;> rfl
  | _ => rfl

theorem apply_withCtx {a : Act} (ha : a.sparesCtx = true) (r : Bool) (s : State) (c : SioContext) :
    a.apply r (s.withCtx c) = (a.apply r s).withCtx c := by
  cases a with
  | setRcnt | setSiocnt | setMode | setActive | setSlot | setAlive => cases ha
  | emitIfFailed e => cases r <;> rfl
  | _ => rfl

theorem commutesWith_withCtx {a : Act} (ha : a.sparesCtx = true) (c : SioContext) : a.CommutesWith (·.withCtx c) where
  apply_comm r s := apply_withCtx ha r s c
  answer_comm _ e _ s x := useAnswer_withCtx s c e x

/-- A request whose lines are the same whatever the SIOContext holds, and all spare it, leaves any that is as much alive as
it finds it. -/
theorem RequestLines.exec_withCtx {i : Instr} {acts : State → List Act} (h : RequestLines i acts) {s : State}
    {c : SioContext} (halive : c.alive = s.ctx.alive) (hread : acts (s.withCtx c) = acts s)
    (hwrite : (acts s).all Act.sparesCtx = true) :
    exec i (s.withCtx c) = mapNext (·.withCtx c) (exec i s) := by
  rw [h.exec_eq, h.exec_eq, hread]
  exact perform_commutes (unobserved_withCtx c) (fun a ha => commutesWith_withCtx (List.all_eq_true.mp hwrite a ha) c) halive

/-! ### The lines of the data register's requests spare the SIOContext -/

theorem commandActs_sparesCtx (c : Command) (s : State) : (commandActs c s).all Act.sparesCtx = true := by
  cases c with
  | duplex | dns => rfl
  | send => simp only [commandActs, cmdSendActs]; split <;> rfl
  | recv => simp only [commandActs, cmdRecvActs]; split <;> rfl
  | connect => simp only [commandActs, cmdConnectActs]; split <;> rfl
  | disconnect => simp only [commandActs, cmdDisconnectActs]; split <;> rfl

theorem dataWriteActs_sparesCtx (b : Byte) (s : State) : (dataWriteActs b s).all Act.sparesCtx = true := by
  unfold dataWriteActs
  cases selectWrite s b with
  | term =>
    simp only [writeRowActs, termActs, dispatchActs]
    split
    · exact commandActs_sparesCtx _ s
    · rfl
  | payloadOut => simp only [writeRowActs, payloadOutActs]; split <;> rfl
  | duplexOut => simp only [writeRowActs, duplexOutActs]; split <;> rfl
  | _ => rfl

theorem dataReadActs_sparesCtx (s : State) : (dataReadActs s).all Act.sparesCtx = true := by
  unfold dataReadActs
  cases selectRead s with
  | nodata | estab => rfl
  | payloadIn => simp only [readRowActs, payloadInActs]; split <;> rfl
  | duplexIn => simp only [readRowActs, duplexInActs]; split <;> rfl

/-- Settles O19: the lines of both requests are computed from the parameters and the relay alone, and none of them touches the
SIOContext, so each request commutes with its replacement, held or not (`RequestLines.exec_withCtx`). -/
theorem dataRequestsIgnoreContext : Obligations.DataRequestsIgnoreContext := fun s _ value halive =>
  ⟨(RequestLines.wdata value).exec_withCtx halive rfl (dataWriteActs_sparesCtx _ s),
    RequestLines.rdata.exec_withCtx halive rfl (dataReadActs_sparesCtx s)⟩

end Sys2Proof.Machine
end

section
/-! The transfer modes: what each row of the data register that moves a byte leaves, and the reads that move none
(44_relay_transfer.md R221 to R227). -/

namespace Sys2Proof.Machine

open Sys2Proof

/-! ### The lines of a transfer -/

section

variable {s : State} {a : Answer} {rest : List Reply} {m : TMode} {done : Prop} [Decidable done]

/-- The last line of a transfer row ends the phase, or leaves the mode. -/
theorem run_endPhase (hp : s.pending = .idle) (hmode : s.relay.tmode = m) (r : Bool) :
    run r (if done then [.setTmode .idle] else []) s =
      .next { s with relay := { s.relay with tmode := if done then .idle else m } } := by
  split
  · exact finished_idle (s := s.withRelay { s.relay with tmode := .idle }) hp
  · subst hmode
    exact finished_idle hp

/-- One byte is sent, counted, and ends the phase if that is done (R222, R226). -/
theorem run_sendByte (hp : s.pending = .idle) (hmode : s.relay.tmode = m) (hans : Answered s [a] rest) (b : Byte)
    (count : Word) :
    run true ([.call (.sockSend [b]), .setOutCount count] ++ if done then [.setTmode .idle] else []) (s.withOut none) =
      .next { s with
        relay := { s.relay with outCount := count, tmode := if done then .idle else m }
        hist := s.hist ++ [.sockSend [b]]
        out := none
        replies := rest } := by
  refine (run_call_answered (s := s.withOut none) (x := a) (replies := rest) hans true _ _).trans ?_
  exact run_endPhase (s := { s with
    relay := { s.relay with outCount := count }, hist := s.hist ++ [.sockSend [b]], out := none, replies := rest })
    hp hmode true

/-- One byte is received, returned zero-extended, counted, and ends the phase if that is done (R224, R227). -/
theorem run_recvByte (hp : s.pending = .idle) (hmode : s.relay.tmode = m) (hans : Answered s [a] rest) (count : Word) :
    run true ([.call .sockRecv, .setInCount count] ++ if done then [.setTmode .idle] else []) (s.withOut none) =
      .next { s with
        relay := { s.relay with inCount := count, tmode := if done then .idle else m }
        hist := s.hist ++ [.sockRecv]
        out := some (zext16 a.byte)
        replies := rest } := by
  refine (run_call_answered (s := s.withOut none) (x := a) (replies := rest) hans true _ _).trans ?_
  exact run_endPhase (s := { s with
    relay := { s.relay with inCount := count }, hist := s.hist ++ [.sockRecv], out := some (zext16 a.byte), replies := rest })
    hp hmode true

end

/-- The two counters have reached their targets (R226, R227). -/
theorem duplexDone_iff (inCount length outCount outLength : Word) :
    duplexDone inCount length outCount outLength = true ↔
      length.toNat ≤ inCount.toNat ∧ outLength.toNat ≤ outCount.toNat := by
  simp [duplexDone, BitVec.le_def]

/-! ### The rows (R75) -/

/-- The row that a read takes is performed by its own lines. -/
theorem exec_selectedRead {row : ReadRow} {s : State} (hready : Ready s) (hrow : selectRead s = row) :
    exec row.instr s = run true (readRowActs row s) (s.withOut none) := by
  rw [exec_readRow, readRow_selected hrow, perform_ready hready]

/-- Settles O46: in Send every byte takes PAYLOAD_OUT, whose lines send it (`run_sendByte`). -/
theorem payloadOutResult : Obligations.PayloadOutResult := by
  intro b s a rest hready hsend hans
  have hrow : selectWrite s b = .payloadOut := by rw [selectWrite, hsend]; rfl
  exact (exec_selectedRow hready hrow).trans (run_sendByte hready.2 hsend hans b _)

/-- Settles O47: in Recv a read takes PAYLOAD_IN, whose lines receive a byte (`run_recvByte`). -/
theorem payloadInResult : Obligations.PayloadInResult := by
  intro s a rest hready hrecv hans
  have hrow : selectRead s = .payloadIn := by rw [selectRead, hrecv]; rfl
  exact (exec_selectedRead hready hrow).trans (run_recvByte hready.2 hrecv hans _)

/-- Settles O48: in SendRecv a write takes DUPLEX_OUT and a read DUPLEX_IN, which move a byte as in Send and in Recv; only
when they are done is the other rule (`duplexDone_iff`). -/
theorem duplexResults : Obligations.DuplexResults := by
  intro b s a rest hready hduplex hans
  have hwrite : selectWrite s b = .duplexOut := by rw [selectWrite, hduplex]; rfl
  have hread : selectRead s = .duplexIn := by rw [selectRead, hduplex]; rfl
  simp only [← duplexDone_iff]
  exact ⟨(exec_selectedRow hready hwrite).trans (run_sendByte hready.2 hduplex hans b _),
    (exec_selectedRead hready hread).trans (run_recvByte hready.2 hduplex hans _)⟩

/-- A read whose row only returns a constant, by the row and by the request. -/
theorem exec_constantRead {row : ReadRow} {v : Word} {s : State} (hready : Ready s) (hrow : selectRead s = row)
    (hacts : readRowActs row s = [.setOut v]) :
    exec row.instr s = .next { s with out := some v } ∧ exec .rdata s = .next { s with out := some v } := by
  have hexec : exec row.instr s = .next { s with out := some v } := by
    rw [exec_selectedRead hready hrow, hacts, run_setOut]
    exact finished_idle (s := s.withOut (some v)) hready.2
  exact ⟨hexec, exec_readRow_eq_rdata row s ▸ hexec⟩

/-- Settles O49: in the five modes the state selects READ_NODATA or READ_ESTAB, whose one line returns the constant. -/
theorem readsWithoutSideEffects : Obligations.ReadsWithoutSideEffects := by
  refine fun s hready => ⟨fun hmode => exec_constantRead (row := .nodata) hready ?_ rfl,
    fun hestab => exec_constantRead (row := .estab) hready ?_ rfl⟩
  · rw [selectRead]
    rcases hmode with h | h | h | h <;> rw [h] <;> rfl
  · rw [selectRead, hestab]; rfl

end Sys2Proof.Machine
end

section
/-! Whole transfer phases: a Send phase takes as many writes, and a Recv phase as many reads, as the length says, and at least
one (44_relay_transfer.md R229, R230). -/

namespace Sys2Proof.Machine

open Sys2Proof

/-- An instruction that completes, and those after it. -/
theorem performAll_cons {i : Instr} {is : List Instr} {s t : State} (h : exec i s = .next t) (ht : t.pending = .idle) :
    performAll (i :: is) s = performAll is t := by
  simp only [performAll, h, ht, if_true]

/-- The mode of a phase begun in mode `m`, with `n` bytes moved of `length`: the phase ends after `length` bytes, and after
one for a length of 0 (R229). -/
def phaseMode (m : TMode) (length : Word) (n : Nat) : TMode := if n = max length.toNat 1 then .idle else m

theorem phaseMode_of_lt {m : TMode} {length : Word} {n : Nat} (h : n < max length.toNat 1) : phaseMode m length n = m :=
  if_neg h.ne

/-- Short of the end of a phase the counter does not wrap, so that "the counter is at least the length", tested after the
increment (R222, R224), ends the phase just where `phaseMode` does. -/
theorem phaseMode_succ (m : TMode) {length : Word} {n : Nat} (h : n < max length.toNat 1) :
    (if length.toNat ≤ (BitVec.ofNat 16 n + 1).toNat then .idle else m) = phaseMode m length (n + 1) := by
  have hcount : (BitVec.ofNat 16 n + 1).toNat = n + 1 := by
    show (BitVec.ofNat 16 n + BitVec.ofNat 16 1).toNat = n + 1
    rw [← BitVec.ofNat_add, BitVec.toNat_ofNat, Nat.mod_eq_of_lt (by have := length.isLt; omega)]
  exact if_congr (by omega) rfl rfl

/-! ### Send (R222, R230) -/

/-- The relay of a Send phase in which `n` bytes have been sent. -/
def RelayState.afterSends (r : RelayState) (n : Nat) : RelayState :=
  { r with outCount := BitVec.ofNat 16 n, tmode := phaseMode .send r.length n }

theorem RelayState.afterSends_zero {r : RelayState} (hsend : r.tmode = .send) (hcount : r.outCount = 0#16) :
    r.afterSends 0 = r := by
  rw [RelayState.afterSends, phaseMode_of_lt (by omega), ← hsend, ← hcount]

/-- One write of a Send phase. -/
theorem exec_wdata_send {s : State} {r : RelayState} {n : Nat} (hready : Ready s) (hrelay : s.relay = r.afterSends n)
    (hn : n < max r.length.toNat 1) {a : Answer} {rest : List Reply} (hans : Answered s [a] rest) (b : Byte) :
    exec (.wdata (zext16 b)) s = .next { s with
      relay := r.afterSends (n + 1), hist := s.hist ++ [.sockSend [b]], out := none, replies := rest } := by
  have hsend : s.relay.tmode = .send := hrelay ▸ phaseMode_of_lt hn
  have hbyte := payloadOutResult b s a rest hready hsend hans
  rw [hrelay] at hbyte
  rw [RelayState.afterSends, ← phaseMode_succ _ hn, BitVec.ofNat_add]
  exact (exec_row_eq_wdata .payloadOut b s).symm.trans hbyte

/-- Writes of a Send phase, at least one and no more than are left of it. -/
theorem performAll_sends {bs : List Byte} {s : State} {r : RelayState} {n : Nat} {xs : List Answer} {rest : List Reply}
    (hready : Ready s) (hrelay : s.relay = r.afterSends n) (hne : bs ≠ []) (hroom : n + bs.length ≤ max r.length.toNat 1)
    (hlen : xs.length = bs.length) (hans : Answered s xs rest) :
    performAll (wbytes bs) s = .next { s with
      relay := r.afterSends (n + bs.length)
      hist := s.hist ++ bs.map fun b => .sockSend [b]
      out := none
      replies := rest } := by
  induction bs generalizing s n xs with
  | nil => exact absurd rfl hne
  | cons b bs ih =>
    obtain ⟨x, xs, rfl⟩ := List.exists_cons_of_length_eq_add_one hlen
    rw [List.length_cons] at hroom hlen
    have hwrite := exec_wdata_send (rest := xs.map .answer ++ rest) hready hrelay (by omega) hans b
    refine (performAll_cons hwrite hready.2).trans ?_
    cases bs with
    | nil =>
      obtain rfl : xs = [] := by simpa using hlen
      rfl
    | cons b' bs =>
      refine (ih (n := n + 1) ?_ rfl (List.cons_ne_nil _ _) (by omega) (Nat.succ.inj hlen) rfl).trans ?_
      · exact hready
      · rw [Nat.add_right_comm, List.append_assoc]; rfl

/-- Settles O59: the first write finds the phase with nothing sent (`RelayState.afterSends_zero`), and each one more sends its
byte (`performAll_sends`). -/
theorem sendPhaseTakesLengthWrites : Obligations.SendPhaseTakesLengthWrites := by
  intro bs s xs rest hready hsend hcount hpos hroom hlen hans
  have hphase := performAll_sends (r := s.relay) (n := 0) hready (RelayState.afterSends_zero hsend hcount).symm
    (List.ne_nil_of_length_pos hpos) (by omega) hlen hans
  rwa [Nat.zero_add] at hphase

/-! ### Recv (R224, R230) -/

/-- The relay of a Recv phase in which `n` bytes have been received. -/
def RelayState.afterRecvs (r : RelayState) (n : Nat) : RelayState :=
  { r with inCount := BitVec.ofNat 16 n, tmode := phaseMode .recv r.length n }

theorem RelayState.afterRecvs_zero {r : RelayState} (hrecv : r.tmode = .recv) (hcount : r.inCount = 0#16) :
    r.afterRecvs 0 = r := by
  rw [RelayState.afterRecvs, phaseMode_of_lt (by omega), ← hrecv, ← hcount]

/-- One read of a Recv phase. -/
theorem exec_rdata_recv {s : State} {r : RelayState} {n : Nat} (hready : Ready s) (hrelay : s.relay = r.afterRecvs n)
    (hn : n < max r.length.toNat 1) {a : Answer} {rest : List Reply} (hans : Answered s [a] rest) :
    exec .rdata s = .next { s with
      relay := r.afterRecvs (n + 1), hist := s.hist ++ [.sockRecv], out := some (zext16 a.byte), replies := rest } := by
  have hrecv : s.relay.tmode = .recv := hrelay ▸ phaseMode_of_lt hn
  have hbyte := payloadInResult s a rest hready hrecv hans
  rw [hrelay] at hbyte
  rw [RelayState.afterRecvs, ← phaseMode_succ _ hn, BitVec.ofNat_add]
  exact (exec_readRow_eq_rdata .payloadIn s).symm.trans hbyte

/-- Reads of a Recv phase, no more than are left of it; the last answer's byte is the one returned. -/
theorem performAll_recvs {xs : List Answer} {s : State} {r : RelayState} {n : Nat} {x : Answer} {rest : List Reply}
    (hready : Ready s) (hrelay : s.relay = r.afterRecvs n) (hroom : n + (xs.length + 1) ≤ max r.length.toNat 1)
    (hans : Answered s (xs ++ [x]) rest) :
    performAll (rdataN (xs.length + 1)) s = .next { s with
      relay := r.afterRecvs (n + (xs.length + 1))
      hist := s.hist ++ List.replicate (xs.length + 1) .sockRecv
      out := some (zext16 x.byte)
      replies := rest } := by
  induction xs generalizing s n with
  | nil => exact performAll_cons (exec_rdata_recv hready hrelay (by omega) hans) hready.2
  | cons y ys ih =>
    rw [List.length_cons] at hroom
    have hread := exec_rdata_recv (rest := (ys ++ [x]).map .answer ++ rest) hready hrelay (by omega) hans
    refine (performAll_cons hread hready.2).trans ?_
    refine (ih (n := n + 1) ?_ rfl (by omega) rfl).trans ?_
    · exact hready
    · rw [Nat.add_right_comm, List.append_assoc]; rfl

/-- Settles O60: the first read finds the phase with nothing received (`RelayState.afterRecvs_zero`), and each one more receives
a byte (`performAll_recvs`). -/
theorem recvPhaseTakesLengthReads : Obligations.RecvPhaseTakesLengthReads := by
  intro s xs x rest hready hrecv hcount hroom hans
  have hphase := performAll_recvs (r := s.relay) (n := 0) hready (RelayState.afterRecvs_zero hrecv hcount).symm
    (by omega) hans
  rwa [Nat.zero_add] at hphase

end Sys2Proof.Machine
end

section
/-! Refusals and holds: when a request is given no meaning, what a block that waits does with a step, and where a socket call
that has no answer leaves its request (60_exceptions.md R250 to R252, R266, R267). -/

namespace Sys2Proof.Machine

open Sys2Proof

/-! ### Which requests are refused (R30, R71, R267) -/

/-- A reserved kind is refused in every state; any other instruction accepts the lines of one request, or is the DATA writes
of at least one byte. -/
theorem exec_shape (i : Instr) :
    (i.isReserved = true ∧ ∃ why, ∀ s, exec i s = .refused why) ∨
    (i.isReserved = false ∧ ∃ acts : State → List Act, ∀ s, exec i s = perform (acts s) s) ∨
    (i.isReserved = false ∧ ∃ b bytes, ∀ s, exec i s = writeBytes (b :: bytes) s) := by
  cases i with
  | reservedOp0 | reservedOp6 | reservedOp7 | reservedOpB | reservedOpC | reservedOpD | reservedOpE | reservedOpF =>
    exact .inl ⟨rfl, _, fun _ => rfl⟩
  | cmdSend | cmdRecv | cmdDuplex | cmdConnect | cmdDisconnect | cmdDns => exact .inr (.inr ⟨rfl, _, _, fun _ => rfl⟩)
  | _ => exact .inr (.inl ⟨rfl, _, fun _ => rfl⟩)

theorem exec_reserved {i : Instr} (h : i.isReserved = true) (s : State) : ∃ why, exec i s = .refused why := by
  rcases exec_shape i with ⟨-, why, hexec⟩ | ⟨hi, -⟩ | ⟨hi, -⟩
  · exact ⟨why, hexec s⟩
  · rw [h] at hi; cases hi
  · rw [h] at hi; cases hi

theorem perform_held {s : State} (h : s.pending ≠ .idle) (acts : List Act) : ∃ why, perform acts s = .refused why := by
  cases ha : s.ctx.alive with
  | false => exact ⟨_, perform_destroyed ha acts⟩
  | true => exact ⟨_, perform_reentrant ha h acts⟩

/-- While a request waits on a call every instruction is refused, a frame at its first write (R267). -/
theorem exec_held {s : State} (h : s.pending ≠ .idle) (i : Instr) : ∃ why, exec i s = .refused why := by
  rcases exec_shape i with ⟨-, why, hexec⟩ | ⟨-, acts, hexec⟩ | ⟨-, b, bytes, hexec⟩
  · exact ⟨why, hexec s⟩
  · rw [hexec]; exact perform_held h _
  · obtain ⟨why, hwhy⟩ := perform_held h (dataWriteActs b s)
    exact ⟨why, by rw [hexec, writeBytes, hwhy]⟩

/-! ### Which requests are not (R250, R252) -/

theorem perform_onlyAnswers {s : State} (hready : Ready s) (hans : OnlyAnswers s) (acts : List Act) :
    ∃ t, perform acts s = .next t ∧ OnlyAnswers t := by
  rw [perform_ready hready]
  exact run_next acts true (s.withOut none) hans

/-- A DATA write leaves the SIOContext alone: it commutes with writing back the context that stands there (R65). -/
theorem dataWrite_ctx {b : Byte} {s t : State} (h : perform (dataWriteActs b s) s = .next t) : t.ctx = s.ctx := by
  rw [← exec_wdata_byte] at h
  have hcommutes := (dataRequestsIgnoreContext s s.ctx (zext16 b) rfl).1
  have hself : exec (.wdata (zext16 b)) (s.withCtx s.ctx) = .next t := h
  rw [hself, h] at hcommutes
  have hnext : t = t.withCtx s.ctx := Host.Outcome.next.inj hcommutes
  rw [hnext, State.withCtx_ctx]

/-- DATA writes whose agents only answer complete or are held: a write that completes leaves a block that accepts the next. -/
theorem writeBytes_onlyAnswers {bytes : List Byte} {s : State} (hready : Ready s) (hans : OnlyAnswers s) :
    ∃ t, writeBytes bytes s = .next t := by
  induction bytes generalizing s with
  | nil => exact ⟨s, rfl⟩
  | cons b bytes ih =>
    obtain ⟨u, hu, hans'⟩ := perform_onlyAnswers hready hans (dataWriteActs b s)
    have halive : u.ctx.alive = true := dataWrite_ctx hu ▸ hready.1
    simp only [writeBytes, hu]
    split
    · next hidle => exact ih ⟨halive, hidle⟩ hans'
    · exact ⟨_, rfl⟩

/-- Settles O13: the three grounds are `exec_reserved`, `exec_destroyed` and `exec_held`; without them an instruction is one
request's lines or DATA writes, and neither is refused while the agents only answer (`run_next`). -/
theorem refusedExactlyWhenMeaningless : Obligations.RefusedExactlyWhenMeaningless := by
  refine ⟨fun i s hground => ?_, fun i s hready hans hkind => ?_⟩
  · rcases hground with hkind | hdead | hheld
    · exact exec_reserved hkind s
    · exact exec_destroyed hdead i
    · exact exec_held hheld i
  · rcases exec_shape i with ⟨hi, -⟩ | ⟨-, acts, hexec⟩ | ⟨-, b, bytes, hexec⟩
    · rw [hkind] at hi; cases hi
    · obtain ⟨t, ht, -⟩ := perform_onlyAnswers hready hans (acts s)
      exact ⟨t, (hexec s).trans ht⟩
    · rw [hexec]; exact writeBytes_onlyAnswers hready hans

/-! ### A block that waits (R266, R267) -/

theorem resume_unanswered {s : State} (h : s.replies = []) (e : Event) (r : Bool) (acts : List Act) :
    resume e r acts s = .next s := by
  rw [resume, h]

theorem resume_reentrant {s : State} {w : ReqWord} {rest : List Reply} (h : s.replies = .request w :: rest) (e : Event)
    (r : Bool) (acts : List Act) : resume e r acts s = .refused .reentrant := by
  rw [resume, h]

theorem step_empty_port {s : State} (hp : s.pending = .idle) (hport : s.port = []) : step s = .next s := by
  rw [step, hp]
  simp only [takeRequest, hport]

/-- Settles O10: a held block without a reply stays (`resume_unanswered`) and refuses every instruction (`exec_held`), and an
empty port gives a step nothing to perform. -/
theorem waitingChangesNothing : Obligations.WaitingChangesNothing :=
  ⟨fun _ e r acts hheld hnone => ⟨(step_held hheld).trans (resume_unanswered hnone e r acts),
      exec_held (by rw [hheld]; exact Pending.noConfusion)⟩,
    fun _ hp hport => step_empty_port hp hport⟩

/-! ### A transfer's socket call (R222, R224, R196) -/

/-- In Send a DATA write is the lines of PAYLOAD_OUT. -/
theorem exec_wdata_payloadOut {s : State} (hready : Ready s) (hsend : s.relay.tmode = .send) (value : Word) :
    exec (.wdata value) s = run true (payloadOutActs (lowByte value) s) (s.withOut none) := by
  have hrow : selectWrite s (lowByte value) = .payloadOut := by rw [selectWrite, hsend]; rfl
  rw [exec_wdata_row, hrow]
  exact exec_selectedRow hready hrow

/-- In Recv a DATA read is the lines of PAYLOAD_IN. -/
theorem exec_rdata_payloadIn {s : State} (hready : Ready s) (hrecv : s.relay.tmode = .recv) :
    exec .rdata s = run true (payloadInActs s) (s.withOut none) := by
  have hrow : selectRead s = .payloadIn := by rw [selectRead, hrecv]; rfl
  exact (exec_readRow_eq_rdata .payloadIn s).symm.trans (exec_selectedRead hready hrow)

theorem cmdDisconnectActs_of {s : State} {h : SockHandle} (hsock : s.relay.sock = some h) :
    cmdDisconnectActs s = [.call (.sockClose h), .setSock none] := by
  rw [cmdDisconnectActs, hsock]

/-- Settles O14: during a hold the request meets `resume`, and at the call of a Send byte it meets the first line of
PAYLOAD_OUT (`run_call_reentrant`). -/
theorem reentrantRequestRefused : Obligations.ReentrantRequestRefused := by
  refine ⟨fun s e r acts w rest hheld hreq => (step_held hheld).trans (resume_reentrant hreq e r acts),
    fun s value w rest hready hsend hreq => ?_⟩
  rw [exec_wdata_payloadOut hready hsend]
  exact run_call_reentrant (s := s.withOut none) hreq true _ _

/-- Settles O50: each of the three requests comes to its socket call with nothing but the relay's mode written, and a call
with no reply holds it there (`run_call_held`). -/
theorem unansweredSocketCallHolds : Obligations.UnansweredSocketCallHolds := by
  refine fun value s hready hnone => ⟨fun hsend => ?_, fun hrecv => ?_, fun ps h hparse hbuf hsock => ?_⟩
  · rw [exec_wdata_payloadOut hready hsend]
    exact ⟨_, run_call_held (s := s.withOut none) hnone true _ _⟩
  · rw [exec_rdata_payloadIn hready hrecv]
    exact ⟨_, run_call_held (s := s.withOut none) hnone true _ _⟩
  · have hlines : commandActs .disconnect s = [.call (.sockClose h), .setSock none] := cmdDisconnectActs_of hsock
    rw [exec_term (c := .disconnect) hready hparse hbuf, hlines]
    exact ⟨_, run_call_held (s := { s with relay := { s.relay with tmode := .idle }, out := none }) hnone true _ _⟩

end Sys2Proof.Machine
end

section
/-! RESET, and the one that construction ends with (70_reset_and_hazards.md R280 to R283). -/

namespace Sys2Proof.Machine

open Sys2Proof

/-- Re-derivation from Unset, which has no driver, to the mode of the registers owes that mode's Load alone (R106, R280). -/
theorem rederiveEvents_unset (p : Params) (c : SioContext) (rcnt siocnt : Word) :
    rederiveEvents p c .unset (deriveMode p rcnt siocnt) = loadEvents p (c.lookup (deriveMode p rcnt siocnt)) :=
  if_neg (deriveMode_ne_unset p rcnt siocnt)

/-- Settles O29: the lines are the Unload, the four default values and the re-derivation from Unset (`rederive_run`), and the
answers are shared out between the two groups of calls. -/
theorem resetResult : Obligations.ResetResult := by
  intro s xs rest hready hans mode events hlen
  obtain ⟨ys, zs, hys, hzs, hans⟩ := answers_in_two hlen hans
  have hload : rederiveEvents s.params s.ctx .unset mode = loadEvents s.params (s.ctx.lookup mode) :=
    rederiveEvents_unset s.params s.ctx s.params.rcntReset 0x0000
  have hmode : mode ≠ .unset := deriveMode_ne_unset s.params s.params.rcntReset 0x0000
  have hacts : resetActs s = (unloadEvents s.params (s.ctx.lookup s.ctx.mode)).map Act.call ++
      .setRcnt s.params.rcntReset :: .setSiocnt 0x0000 :: .setMode .unset :: .setActive none ::
        (rederiveActs s.params s.ctx .unset mode ++ []) := by
    rw [resetActs, unloadActs_eq, List.append_nil]; rfl
  show perform (resetActs s) s = _
  rw [perform_ready hready, hacts, run_plain_calls true _ (unloadEvents_plain _ _) _ (s.withOut none) ys _ hys hans,
    run_setRcnt, run_setSiocnt, run_setMode, run_setActive, rederive_run _ _ _ _ _ _ _ zs rest (hload ▸ hzs) rfl, hload,
    if_neg hmode, run_nil]
  simp only [State.withCtx, State.withOut, State.withPending, List.append_assoc, hready.2]
  rfl

/-- Settles O30: on the constructed block, whose slots are empty, RESET calls no hook (`resetResult`), and the default
parameters map the selector 8 to Multiplayer. -/
theorem constructionEndsInReset : Obligations.ConstructionEndsInReset :=
  ⟨resetResult State.constructed [] [] ⟨rfl, rfl⟩ rfl rfl, rfl, rfl, by decide, fun k => by cases k <;> rfl, rfl, rfl, rfl,
    rfl, rfl, rfl, rfl, rfl, rfl, rfl, rfl, rfl, rfl, rfl⟩

end Sys2Proof.Machine
end

section
/-! No request leaves a transfer phase that has bytes to move: which lines write the transfer mode, and that in such a phase no
request has one (70_reset_and_hazards.md R282, R294). -/

namespace Sys2Proof.Machine

open Sys2Proof

/-! ### Lines that leave the transfer mode -/

/-- None of the lines writes the transfer mode. -/
def NoTmodeLine (acts : List Act) : Prop := ∀ m, Act.setTmode m ∉ acts

theorem noTmodeLine_of_sparesRelay {acts : List Act} (hacts : acts.all Act.sparesRelay = true) : NoTmodeLine acts :=
  fun _ hmem => Bool.false_ne_true (List.all_eq_true.mp hacts _ hmem)

theorem apply_tmode {a : Act} (ha : ∀ m, a ≠ .setTmode m) (r : Bool) (s : State) :
    (a.apply r s).relay.tmode = s.relay.tmode := by
  cases a with
  | setTmode m => exact absurd rfl (ha m)
  | emitIfFailed e => cases r <;> rfl
  | _ => rfl

/-- Without such a line the transfer mode stays, whether the lines complete or are held. -/
theorem NoTmodeLine.run_tmode {acts : List Act} (hacts : NoTmodeLine acts) {r : Bool} {s t : State}
    (h : run r acts s = .next t) : t.relay.tmode = s.relay.tmode := by
  induction acts generalizing r s with
  | nil => cases h; rfl
  | cons a rest ih =>
    have ha : ∀ m, a ≠ .setTmode m := fun m hm => hacts m (hm ▸ List.mem_cons_self)
    have hrest : NoTmodeLine rest := fun m hmem => hacts m (List.mem_cons_of_mem a hmem)
    rw [run] at h
    split at h
    · split at h
      · exact (ih hrest h).trans (useAnswer_tmode _ _ _)
      · cases h
      · cases h; rfl
    · split at h
      · cases h; rfl
      · exact (ih hrest h).trans (apply_tmode ha r s)

theorem NoTmodeLine.perform_tmode {acts : List Act} (hacts : NoTmodeLine acts) {s t : State}
    (h : perform acts s = .next t) : t.relay.tmode = s.relay.tmode :=
  hacts.run_tmode (s := s.withOut none) (perform_next h).2

/-! ### A phase with bytes to move -/

/-- The relay is in Send or Recv, and the next byte is not the last of the phase (R222, R224). -/
def PhaseUnfinished (r : RelayState) : Prop :=
  r.tmode = .send ∧ r.outCount.toNat + 1 < r.length.toNat ∨ r.tmode = .recv ∧ r.inCount.toNat + 1 < r.length.toNat

/-- A counter that is more than one below the length is still below it after a byte, as it does not wrap. -/
theorem not_length_le_succ {length count : Word} (h : count.toNat + 1 < length.toNat) : ¬ length ≤ count + 1 := by
  bv_omega

/-- In Send the row sends and counts; in Recv a write is ignored (R222, R223). -/
theorem dataWriteActs_noTmodeLine {s : State} (hs : PhaseUnfinished s.relay) (b : Byte) :
    NoTmodeLine (dataWriteActs b s) := by
  rcases hs with ⟨hsend, hcount⟩ | ⟨hrecv, -⟩
  · have hrow : selectWrite s b = .payloadOut := by rw [selectWrite, hsend]; rfl
    rw [dataWriteActs, hrow, writeRowActs, payloadOutActs, if_neg (not_length_le_succ hcount)]
    simp [NoTmodeLine]
  · rw [dataWriteActs, selectWrite_xferIgn (.inl hrecv)]
    exact fun _ => List.not_mem_nil

/-- In Send a read returns the sentinel; in Recv the row receives and counts (R221, R224). -/
theorem dataReadActs_noTmodeLine {s : State} (hs : PhaseUnfinished s.relay) : NoTmodeLine (dataReadActs s) := by
  rcases hs with ⟨hsend, -⟩ | ⟨hrecv, hcount⟩
  · have hrow : selectRead s = .nodata := by rw [selectRead, hsend]; rfl
    rw [dataReadActs, hrow, readRowActs, nodataActs]
    simp [NoTmodeLine]
  · have hrow : selectRead s = .payloadIn := by rw [selectRead, hrecv]; rfl
    rw [dataReadActs, hrow, readRowActs, payloadInActs, if_neg (not_length_le_succ hcount)]
    simp [NoTmodeLine]

/-- DESTROY writes of the relay only the socket (R117). -/
theorem destroyActs_noTmodeLine (s : State) : NoTmodeLine (destroyActs s) := by
  rw [destroyActs_eq]
  simp [NoTmodeLine]

theorem RequestLines.noTmodeLine {i : Instr} {acts : State → List Act} (h : RequestLines i acts) {s : State}
    (hs : PhaseUnfinished s.relay) : NoTmodeLine (acts s) := by
  cases h with
  | wdata value => exact dataWriteActs_noTmodeLine hs _
  | rdata => exact dataReadActs_noTmodeLine hs
  | destroy => exact destroyActs_noTmodeLine s
  | wrcnt value => exact noTmodeLine_of_sparesRelay (wrcntActs_sparesRelay value s)
  | wsiocnt value => exact noTmodeLine_of_sparesRelay (wsiocntActs_sparesRelay value s)
  | wother off value => exact noTmodeLine_of_sparesRelay (wotherActs_sparesRelay off value s)
  | reset => exact noTmodeLine_of_sparesRelay (resetActs_sparesRelay s)
  | setdrv code handle => exact noTmodeLine_of_sparesRelay (setdrvActs_sparesRelay code handle s)

/-! ### Every instruction but the frames -/

/-- An instruction that is no frame and not refused performs the lines of a request: its own, or those of the DATA write or
read that it is a row of. -/
theorem exec_requestLines {i : Instr} (hframe : i.isFrame = false) {s t : State} (h : exec i s = .next t) :
    ∃ j acts, RequestLines j acts ∧ perform (acts s) s = .next t := by
  rcases instr_cases i with hreq | ⟨row, b, rfl⟩ | ⟨row, rfl⟩ | ⟨c, ps, rfl⟩
  · obtain ⟨w, -, rfl⟩ := requestsDecodeFromTheirWords i hreq
    rcases decode_lines_or_refused w with ⟨acts, hacts⟩ | ⟨why, hwhy⟩
    · exact ⟨_, acts, hacts, hacts.exec_eq s ▸ h⟩
    · rw [hwhy] at h; cases h
  · exact ⟨_, _, .wdata _, (exec_row_eq_wdata row b s).symm.trans h⟩
  · exact ⟨_, _, .rdata, (exec_readRow_eq_rdata row s).symm.trans h⟩
  · cases c <;> cases hframe

/-- Settles O20: the instruction performs the lines of a request, and in a phase with bytes to move no request has a line that
writes the transfer mode. -/
theorem transferPhaseNotLeftEarly : Obligations.TransferPhaseNotLeftEarly := by
  intro i s t hframe h
  obtain ⟨j, acts, hacts, hperform⟩ := exec_requestLines hframe h
  have hkeeps : PhaseUnfinished s.relay → t.relay.tmode = s.relay.tmode := fun hs =>
    (hacts.noTmodeLine hs).perform_tmode hperform
  exact ⟨fun hsend hcount => (hkeeps (.inl ⟨hsend, hcount⟩)).trans hsend,
    fun hrecv hcount => (hkeeps (.inr ⟨hrecv, hcount⟩)).trans hrecv⟩

end Sys2Proof.Machine
end
